-- ==== Sys2Proof/Word.lean ====
section
/-! DEFINITION. The word types of the bus core: a 16-bit address, an 8-bit data value, the request word (27 bits),
the response word (20 bits) and the handler call word (28 bits). Rules R7 (00_scope.md), R80, R84 (30_encoding.md),
R195 (45_handler_ports.md). -/

namespace Sys2Proof

/-- An address: a 16-bit unsigned integer (R7, R50). -/
abbrev Address := BitVec 16

/-- A data value: 8 bits (R7, D7). -/
abbrev Byte := BitVec 8

/-- The data field of a response: 16 bits (R84). -/
abbrev Data := BitVec 16

/-- A request word REQ (R80). -/
abbrev ReqWord := BitVec 27

/-- A response word RSP (R84). -/
abbrev RspWord := BitVec 20

/-- A handler call word HCALL (R195). -/
abbrev HCallWord := BitVec 28

end Sys2Proof
end

