-- ==== Sys2Proof/Syntax.lean ====
section
/-! DEFINITION. The instructions of the block (one constructor per row of spec/opcode_table.json, R90), the regions of
the address map, and what travels on the block's ports: requests, responses, handler calls and events. -/

namespace Sys2Proof

/-- The 21 rows of rule R90. A row that uses ADDR carries the whole 16-bit address operand, a WR8 row its value, RESTORE its
payload (R89); fields that a row ignores (R83) are no part of the instruction. `Instr.wf` says which addresses a row admits. -/
inductive Instr where
  | coldReset
  | warmReset
  | rd8Ram (addr : Address)
  | rd8Vid (addr : Address)
  | rd8Inp (addr : Address)
  | rd8Lio (addr : Address)
  | rd8Exr (addr : Address)
  | rd8Sav (addr : Address)
  | rd8Prg (addr : Address)
  | wr8Ram (addr : Address) (v : Byte)
  | wr8Vid (addr : Address) (v : Byte)
  | wr8Dma (v : Byte)
  | wr8Inp (addr : Address) (v : Byte)
  | wr8Aud (addr : Address) (v : Byte)
  | wr8Exr (addr : Address) (v : Byte)
  | wr8Sav (addr : Address) (v : Byte)
  | wr8Prg (addr : Address) (v : Byte)
  | rd16 (addr : Address)
  | capture
  | restore (payload : List Byte)
  | illegal
  deriving DecidableEq, Repr

/-- The six region tags of DECODE (R110). -/
inductive Region where
  | ram | vid | lio | exr | sav | prg
  deriving DecidableEq, Repr

/-- The four external units behind the handler ports (R190). -/
inductive HandlerUnit where
  | video | input | audio | cartridge
  deriving DecidableEq, Repr

/-- What one of the four references of BIND holds: nothing before the first reset, the session's unit after it (R20, R26). -/
inductive Binding where
  | unbound | session
  deriving DecidableEq, Repr

/-- BIND: the four handler references (R20, R26). -/
structure Bind where
  video : Binding
  input : Binding
  audio : Binding
  cartridge : Binding
  deriving DecidableEq, Repr

/-- The parameter DMA_READ_NESTING (R7, R200). -/
inductive DmaNesting where
  | nested | after
  deriving DecidableEq, Repr, Inhabited

/-- A finite mapping from addresses to labels (R20, R27): a key's label is that of its first entry. -/
abbrev WatchMap := List (Address × String)

/-- The twelve handler functions with their arguments (R191 to R194). -/
inductive HandlerCall where
  | vidRd (i : BitVec 3)
  | vidWr (i : BitVec 3) (v : Byte)
  | vidDma (v : Byte)
  | inpRd (a : Address)
  | inpWr (a : Address) (v : Byte)
  | audWr (a : Address) (v : Byte)
  | cartRdx (a : Address)
  | cartWrx (a : Address) (v : Byte)
  | cartRds (a : Address)
  | cartWrs (a : Address) (v : Byte)
  | cartRdp (a : Address)
  | cartWrp (a : Address) (v : Byte)
  deriving DecidableEq, Repr

/-- The events of R5: a handler call, a trace line of the monitor (R171), the rebind marker of a reset (R244). -/
inductive Event where
  | call (c : HandlerCall)
  | trace (label : String) (v : Byte)
  | rebind
  deriving DecidableEq, Repr

/-- The status of a response (R84, R210). -/
inductive Status where
  | ok | snapshotLengthError | illegalOp | notPoweredOn | dispatchAssert
  deriving DecidableEq, Repr

/-- A request: the word REQ and, for RESTORE, the payload (R33, R80, R89). -/
structure Request where
  word : ReqWord
  payload : List Byte
  deriving DecidableEq, Repr

/-- A response: status and data (R84) and, for a successful CAPTURE only, the snapshot payload (R33, R180). -/
structure Response where
  status : Status
  rdata : Data
  payload : Option (List Byte)
  deriving DecidableEq, Repr

end Sys2Proof
end

