-- ==== Sys2Proof/WellFormed.lean ====
section
/-! DEFINITION. Which operands a row of rule R90 admits: the address condition of the row, less the addresses an earlier
row of the priority order takes. -/

namespace Sys2Proof

/-- The two input addresses 0x4016 and 0x4017 (R7, R133). -/
def isInputAddr (a : Address) : Bool := a == 0x4016#16 || a == 0x4017#16

/-- The 32 addresses of the Low-I/O sub-range (R54, R112). -/
def isLowIoAddr (a : Address) : Bool := (a &&& 0xE000#16) == 0x4000#16 && (a &&& 0x1FE0#16) == 0#16

/-- The address condition of each row (R90). A RESTORE payload may have any length (R89). -/
def Instr.wf : Instr → Bool
  | .coldReset => true
  | .warmReset => true
  | .rd8Ram a => (a &&& 0xE000#16) == 0x0000#16
  | .rd8Vid a => (a &&& 0xE000#16) == 0x2000#16
  | .rd8Inp a => isInputAddr a
  | .rd8Lio a => isLowIoAddr a && !isInputAddr a
  | .rd8Exr a => (a &&& 0xE000#16) == 0x4000#16 && (a &&& 0x1FE0#16) != 0#16
  | .rd8Sav a => (a &&& 0xE000#16) == 0x6000#16
  | .rd8Prg a => (a &&& 0x8000#16) == 0x8000#16
  | .wr8Ram a _ => (a &&& 0xE000#16) == 0x0000#16
  | .wr8Vid a _ => (a &&& 0xE000#16) == 0x2000#16
  | .wr8Dma _ => true
  | .wr8Inp a _ => isInputAddr a
  | .wr8Aud a _ => isLowIoAddr a && !isInputAddr a && a != 0x4014#16
  | .wr8Exr a _ => (a &&& 0xE000#16) == 0x4000#16 && (a &&& 0x1FE0#16) != 0#16
  | .wr8Sav a _ => (a &&& 0xE000#16) == 0x6000#16
  | .wr8Prg a _ => (a &&& 0x8000#16) == 0x8000#16
  | .rd16 _ => true
  | .capture => true
  | .restore _ => true
  | .illegal => true

end Sys2Proof
end

