-- ==== Sys2Proof/Decode.lean ====
section
/-! DEFINITION. The address decoder DECODE (40_decoder.md), the request decoder (the opcode table of R90, first row that
matches), the encoder, and the words of responses and handler calls (R84, R195). -/

namespace Sys2Proof

/-- DECODE (R110 to R113): the region of an address and the offset passed on. -/
def decodeAddr (a : Address) : Region × Address :=
  if (a &&& 0xE000#16) = 0x0000#16 then (.ram, a &&& 0x07FF#16)
  else if (a &&& 0xE000#16) = 0x2000#16 then (.vid, a &&& 0x0007#16)
  else if (a &&& 0xE000#16) = 0x4000#16 then
    if (a &&& 0x1FE0#16) = 0#16 then (.lio, a) else (.exr, a)
  else if (a &&& 0xE000#16) = 0x6000#16 then (.sav, a)
  else (.prg, a)

/-- The field OP of a request word (R80). -/
def opField (w : ReqWord) : BitVec 3 := w.extractLsb' 24 3

/-- The field ADDR of a request word (R80). -/
def addrField (w : ReqWord) : Address := w.extractLsb' 8 16

/-- The field WDATA of a request word (R80). -/
def dataField (w : ReqWord) : Byte := w.extractLsb' 0 8

/-- The request word of an operation code, an address and a value (R80). -/
def reqWord (op : BitVec 3) (a : Address) (v : Byte) : ReqWord := op ++ a ++ v

/-- One row of the opcode table (R90): a word is the row's when `word &&& mask = pattern`; `build` makes the instruction
from ADDR, WDATA and the payload. -/
structure OpcodeRow where
  mask : ReqWord
  pattern : ReqWord
  build : Address → Byte → List Byte → Instr

/-- The table's rows, part 1: the resets and the byte reads (R90, rows 1 to 9). -/
def opcodeRowsRead : List OpcodeRow :=
  [ ⟨0x7000000#27, 0x7000000#27, fun _ _ _ => .coldReset⟩,
    ⟨0x7000000#27, 0x6000000#27, fun _ _ _ => .warmReset⟩,
    ⟨0x7E00000#27, 0x0000000#27, fun a _ _ => .rd8Ram a⟩,
    ⟨0x7E00000#27, 0x0200000#27, fun a _ _ => .rd8Vid a⟩,
    ⟨0x7FFFE00#27, 0x0401600#27, fun a _ _ => .rd8Inp a⟩,
    ⟨0x7FFE000#27, 0x0400000#27, fun a _ _ => .rd8Lio a⟩,
    ⟨0x7E00000#27, 0x0400000#27, fun a _ _ => .rd8Exr a⟩,
    ⟨0x7E00000#27, 0x0600000#27, fun a _ _ => .rd8Sav a⟩,
    ⟨0x7800000#27, 0x0800000#27, fun a _ _ => .rd8Prg a⟩ ]

/-- The table's rows, part 2: the byte writes (R90, rows 10 to 17). -/
def opcodeRowsWrite : List OpcodeRow :=
  [ ⟨0x7E00000#27, 0x1000000#27, fun a v _ => .wr8Ram a v⟩,
    ⟨0x7E00000#27, 0x1200000#27, fun a v _ => .wr8Vid a v⟩,
    ⟨0x7FFFF00#27, 0x1401400#27, fun _ v _ => .wr8Dma v⟩,
    ⟨0x7FFFE00#27, 0x1401600#27, fun a v _ => .wr8Inp a v⟩,
    ⟨0x7FFE000#27, 0x1400000#27, fun a v _ => .wr8Aud a v⟩,
    ⟨0x7E00000#27, 0x1400000#27, fun a v _ => .wr8Exr a v⟩,
    ⟨0x7E00000#27, 0x1600000#27, fun a v _ => .wr8Sav a v⟩,
    ⟨0x7800000#27, 0x1800000#27, fun a v _ => .wr8Prg a v⟩ ]

/-- The table's rows, part 3: RD16, the snapshot operations and the reserved code (R90, rows 18 to 21). -/
def opcodeRowsRest : List OpcodeRow :=
  [ ⟨0x7000000#27, 0x2000000#27, fun a _ _ => .rd16 a⟩,
    ⟨0x7000000#27, 0x3000000#27, fun _ _ _ => .capture⟩,
    ⟨0x7000000#27, 0x4000000#27, fun _ _ p => .restore p⟩,
    ⟨0x7000000#27, 0x5000000#27, fun _ _ _ => .illegal⟩ ]

/-- The 21 rows in priority order (R90). -/
def opcodeRows : List OpcodeRow := opcodeRowsRead ++ opcodeRowsWrite ++ opcodeRowsRest

/-- Why the decoder refuses. `noRow`: no row of R90 matches, which no 27-bit word brings about. `wordTooWide`: the number is
no 27-bit word (R80). -/
inductive DecodeReject where
  | noRow
  | wordTooWide
  deriving DecidableEq, Repr

/-- Whether a word is a row's: `(REQ & mask) == match` (R90). -/
def OpcodeRow.takes (r : OpcodeRow) (w : ReqWord) : Bool := (w &&& r.mask) == r.pattern

/-- The first row that takes the word gives the instruction (R90). -/
def decodeRows (rows : List OpcodeRow) (w : ReqWord) (payload : List Byte) : Except DecodeReject Instr :=
  match rows with
  | [] => .error .noRow
  | r :: rest =>
    if r.takes w then .ok (r.build (addrField w) (dataField w) payload) else decodeRows rest w payload

/-- The request decoder (R80, R90): the instruction of a request word and its payload. -/
def decode (w : ReqWord) (payload : List Byte) : Except DecodeReject Instr := decodeRows opcodeRows w payload

/-- The request decoder on any number: one that is no 27-bit word is refused by name. -/
def decodeNat (n : Nat) (payload : List Byte) : Except DecodeReject Instr :=
  if n < 2 ^ 27 then decode (BitVec.ofNat 27 n) payload else .error .wordTooWide

/-- The instruction that the decoder reads from a word of the opcode table: bit 0 of `w` is bit 0 of REQ (R80), bits above
`nbits` are 0, and a RESTORE's payload, to which the table gives no bits, is the empty one (log entry 8). -/
def decodeTableWord (nbits w : Nat) : Option Instr :=
  match decodeNat (w % 2 ^ nbits) [] with
  | .ok i => some i
  | .error _ => none

/-- The canonical request of an instruction: unused fields 0 (R81, R83, R90). -/
def encode : Instr → Request
  | .coldReset => ⟨reqWord 7#3 0#16 0#8, []⟩
  | .warmReset => ⟨reqWord 6#3 0#16 0#8, []⟩
  | .rd8Ram a => ⟨reqWord 0#3 a 0#8, []⟩
  | .rd8Vid a => ⟨reqWord 0#3 a 0#8, []⟩
  | .rd8Inp a => ⟨reqWord 0#3 a 0#8, []⟩
  | .rd8Lio a => ⟨reqWord 0#3 a 0#8, []⟩
  | .rd8Exr a => ⟨reqWord 0#3 a 0#8, []⟩
  | .rd8Sav a => ⟨reqWord 0#3 a 0#8, []⟩
  | .rd8Prg a => ⟨reqWord 0#3 a 0#8, []⟩
  | .wr8Ram a v => ⟨reqWord 1#3 a v, []⟩
  | .wr8Vid a v => ⟨reqWord 1#3 a v, []⟩
  | .wr8Dma v => ⟨reqWord 1#3 0x4014#16 v, []⟩
  | .wr8Inp a v => ⟨reqWord 1#3 a v, []⟩
  | .wr8Aud a v => ⟨reqWord 1#3 a v, []⟩
  | .wr8Exr a v => ⟨reqWord 1#3 a v, []⟩
  | .wr8Sav a v => ⟨reqWord 1#3 a v, []⟩
  | .wr8Prg a v => ⟨reqWord 1#3 a v, []⟩
  | .rd16 a => ⟨reqWord 2#3 a 0#8, []⟩
  | .capture => ⟨reqWord 3#3 0#16 0#8, []⟩
  | .restore p => ⟨reqWord 4#3 0#16 0#8, p⟩
  | .illegal => ⟨reqWord 5#3 0#16 0#8, []⟩

/-- The code of a status in the field STATUS (R84, R210). -/
def Status.code : Status → BitVec 4
  | .ok => 0#4
  | .snapshotLengthError => 1#4
  | .illegalOp => 2#4
  | .notPoweredOn => 3#4
  | .dispatchAssert => 15#4

/-- The response word RSP: STATUS in bits 19:16, RDATA in bits 15:0 (R84). -/
def Response.word (r : Response) : RspWord := r.status.code ++ r.rdata

/-- The word HCALL of its three fields: HSEL 27:24, HADDR 23:8, HWDATA 7:0 (R195). -/
def hcallWord (sel : BitVec 4) (a : Address) (v : Byte) : HCallWord := sel ++ a ++ v

/-- The word HCALL of a handler call (R195). -/
def HandlerCall.word : HandlerCall → HCallWord
  | .vidRd i => hcallWord 0#4 (i.setWidth 16) 0#8
  | .vidWr i v => hcallWord 1#4 (i.setWidth 16) v
  | .vidDma v => hcallWord 2#4 0#16 v
  | .inpRd a => hcallWord 3#4 a 0#8
  | .inpWr a v => hcallWord 4#4 a v
  | .audWr a v => hcallWord 5#4 a v
  | .cartRdx a => hcallWord 6#4 a 0#8
  | .cartWrx a v => hcallWord 7#4 a v
  | .cartRds a => hcallWord 8#4 a 0#8
  | .cartWrs a v => hcallWord 9#4 a v
  | .cartRdp a => hcallWord 10#4 a 0#8
  | .cartWrp a v => hcallWord 11#4 a v

/-- The port that a handler call goes out on (R195). -/
def HandlerCall.port : HandlerCall → HandlerUnit
  | .vidRd _ => .video
  | .vidWr _ _ => .video
  | .vidDma _ => .video
  | .inpRd _ => .input
  | .inpWr _ _ => .input
  | .audWr _ _ => .audio
  | .cartRdx _ => .cartridge
  | .cartWrx _ _ => .cartridge
  | .cartRds _ => .cartridge
  | .cartWrs _ _ => .cartridge
  | .cartRdp _ => .cartridge
  | .cartWrp _ _ => .cartridge

end Sys2Proof
end

