-- ==== Sys2Proof/Config.lean ====
section
/-! DEFINITION. The parameters of the block that the spec leaves OPEN (R7) and the free answers of the environment (R196,
R200): constants without a body, of which nothing can be proved. -/

namespace Sys2Proof

/-- The entries of the parameter WATCH (R7, R173, D16; log entry 5), whatever they are. DESIGN CHOICE, safe: a free value. -/
opaque Config.watchEntries : List (Address × String)

/-- A list of entries without those whose key an earlier entry has: at most one label per address (R27, R177). -/
def WatchMap.dedup : List (Address × String) → List Address → WatchMap
  | [], _ => []
  | (a, l) :: rest, seen =>
    if a ∈ seen then WatchMap.dedup rest seen else (a, l) :: WatchMap.dedup rest (a :: seen)

/-- The parameter WATCH (R7, R173): a well-formed mapping (R177), whichever it is. -/
def Config.watch : WatchMap := WatchMap.dedup Config.watchEntries []

/-- The parameter DMA_READ_NESTING (R7, R200, D20; log entry 6). DESIGN CHOICE, safe: a free value. -/
opaque Config.dmaNesting : DmaNesting

/-- The oracle (R196, D9; log entry 4): the byte a handler answers to a read call, given what its reference holds and the
whole event history so far. DESIGN CHOICE, safe: a free value. -/
opaque Config.oracle : Binding → List Event → HandlerCall → Byte

/-- The addresses of the RD8 requests that the Video Unit issues, in order, from inside a `VID.dma` call when
DMA_READ_NESTING is `nested` (R201, U12; log entry 6), given what its reference holds, the content of Work RAM and the
answers the environment has ready (all it could learn by RD8), the event history without its trace events, from which nothing
flows back (R35, R172), and the byte it was called with. DESIGN CHOICE, safe: a free value. -/
opaque Config.dmaReads : Binding → List (Nat × BitVec 8) → List Byte → List Event → Byte → List Address

end Sys2Proof
end

