-- ==== Sys2Proof/Machine/State.lean ====
section
/-! DEFINITION. The state of the block (R20, 10_state.md), what stands on its ports (R33 to R36), the reasons a step could
stop, the state at power-up and the state right after reset (R248, 70_reset_and_hazards.md). -/

namespace Sys2Proof.Machine

/-- The state. `ram`, `pwr`, `bind` and `watchMap` are the block's own (R20). `watch` and `dmaNesting` are the two OPEN
parameters (R7), arguments of the model that no step writes. `requests`, `responses` and `history` are what stands on the
request port (R33, R36) and what has gone out on the handler and trace ports (R34, R35, R65). `answers` is the model's own
(log entry 4). -/
structure State where
  /-- RAM: the 2048 cells (R21), as the cells that differ from the reset contents, by rising index (log entry 1). -/
  ram : List Host.Cell
  /-- PWR: whether a cold reset has happened since power was applied (R25). -/
  pwr : Bool
  /-- BIND: the four handler references (R26). -/
  bind : Bind
  /-- WATCHMAP: the watch entries of the monitor (R27). -/
  watchMap : WatchMap
  /-- The parameter WATCH (R7, R173). -/
  watch : WatchMap
  /-- The parameter DMA_READ_NESTING (R7, R200). -/
  dmaNesting : DmaNesting
  /-- The requests in the order in which the requester issues them; the head is the one presented (R23, R33). -/
  requests : List Request
  /-- The responses given so far, oldest first (R33, R84). -/
  responses : List Response
  /-- The event history so far, oldest first (R5, R65). -/
  history : List Event
  /-- The bytes the environment has ready for the coming handler reads, the next one first (R196). -/
  answers : List Byte
  deriving DecidableEq, Repr

/-- Why a step would stop with a fault. The block has no halted state (R219): every exception of R210 is a response, a next
state, so no step of the model answers a fault. -/
inductive Fault where
  /-- The assertion of R212, which "should be unreachable". Raised by nothing: the one arm that could reach it, the row
  search of the request decoder finding no row, answers status 15 (U18). Safe: never raised. -/
  | dispatchAssert
  deriving DecidableEq, Repr

/-- Why a step would give an instruction no meaning. -/
inductive Refusal where
  /-- An arm of `exec` without a meaning. Raised by nothing now: every arm has one. Safe: never raised. -/
  | notModelled (mnemonic : String)
  deriving DecidableEq, Repr

/-- What an instruction answers. -/
abbrev Result := Host.Outcome State Fault Refusal

/-- The machine when power is applied, before any reset (R25, R248). RAM has no value then and no rule reads it: it is held
as the empty list (log entry 2). DESIGN CHOICE, safe. -/
def State.powerUp : State where
  ram := []
  pwr := false
  bind := ⟨.unbound, .unbound, .unbound, .unbound⟩
  watchMap := []
  watch := Config.watch
  dmaNesting := Config.dmaNesting
  requests := []
  responses := []
  history := []
  answers := []

/-- The machine right after reset: what COLD_RESET leaves of the power-up state (R241 to R246, R248), its response and its
Rebind event included (log entry 3). -/
def State.reset : State where
  ram := []
  pwr := true
  bind := ⟨.session, .session, .session, .session⟩
  watchMap := Config.watch
  watch := Config.watch
  dmaNesting := Config.dmaNesting
  requests := []
  responses := [⟨.ok, 0#16, none⟩]
  history := [.rebind]
  answers := []

end Sys2Proof.Machine
end

