-- ==== Sys2Proof/Machine/Flags.lean ====
section
/-! DEFINITION. The block has no flags and no condition codes (R24): the outcome of an operation is only in its response.
Here stands how the data of a response is made (R84, R86, R138). -/

namespace Sys2Proof.Machine

/-- The mask of a value to 8 bits, `v & 0xFF` (R138, R161): the identity on an 8-bit value (D7), kept as the rules write it. -/
def mask8 (v : Byte) : Byte := v &&& 0xFF#8

/-- RDATA of an RD8: the byte in bits 7:0, bits 15:8 are 0 (R84). -/
def byteData (v : Byte) : Data := v.setWidth 16

/-- RDATA of an RD16: `(zext_16(hi) << 8) | zext_16(lo)` (R86, R140). -/
def wordData (lo hi : Byte) : Data := (hi.setWidth 16 <<< 8) ||| lo.setWidth 16

end Sys2Proof.Machine
end

