-- ==== Sys2Proof/Machine/Ops.lean ====
section
/-! DEFINITION. The named operations: Work RAM, the ports, the guard, raising an exception, the monitor, the handler calls,
the steps of the reset sequencer, and taking a request off the request port. -/

namespace Sys2Proof.Machine

/-- The number of Work RAM cells (R7, R21). -/
def ramSize : Nat := 2048

/-- What a cell that is not listed holds: the contents after a cold reset (R242; log entry 1). -/
def ramUnlisted (i : Nat) : Byte :=
  if i = 0x008 then 0xF7#8
  else if i = 0x009 then 0xEF#8
  else if i = 0x00A then 0xDF#8
  else if i = 0x00F then 0xBF#8
  else 0xFF#8

/-- `RAM[i]` (R21). -/
def ramRead : List Host.Cell → Nat → Byte
  | [], i => ramUnlisted i
  | c :: m, i => if c.1 = i then c.2 else ramRead m i

/-- A cell in front of a list, unless it holds what an unlisted cell holds. -/
def ramCons (i : Nat) (v : Byte) (m : List Host.Cell) : List Host.Cell :=
  if v = ramUnlisted i then m else (i, v) :: m

/-- `RAM[i] <- v` (R21), keeping the canonical form. -/
def ramWrite : List Host.Cell → Nat → Byte → List Host.Cell
  | [], i, v => ramCons i v []
  | c :: m, i, v =>
    if i < c.1 then ramCons i v (c :: m)
    else if i = c.1 then ramCons i v m
    else c :: ramWrite m i v

/-- The store whose cells from index `i` on are the bytes given, in ascending order (R181, R182). -/
def ramLoad : Nat → List Byte → List Host.Cell
  | _, [] => []
  | i, v :: rest => ramCons i v (ramLoad (i + 1) rest)

/-- The contents of `n` cells from index `i` on, in ascending order (R180, R181). -/
def ramDump (m : List Host.Cell) : Nat → Nat → List Byte
  | _, 0 => []
  | i, n + 1 => ramRead m i :: ramDump m (i + 1) n

/-- The fill of every cell with one value (R241). -/
@[irreducible] def ramFill (v : Byte) : List Host.Cell := ramLoad 0 (List.replicate ramSize v)

/-- Work RAM after a cold reset: the fill with 0xFF, then the four patches (R241, R242). -/
def ramCold : List Host.Cell :=
  ramWrite (ramWrite (ramWrite (ramWrite (ramFill 0xFF#8) 0x008 0xF7#8) 0x009 0xEF#8) 0x00A 0xDF#8) 0x00F 0xBF#8

/-- The canonical form from index `lo` on: indices rise, lie below 2048, and no cell holds what an unlisted one holds. -/
def ramWfFrom : Nat → List Host.Cell → Bool
  | _, [] => true
  | lo, c :: m => decide (lo ≤ c.1) && decide (c.1 < ramSize) && c.2 != ramUnlisted c.1 && ramWfFrom (c.1 + 1) m

/-- The canonical form of Work RAM (R21; log entry 1). -/
def Memory.wf (m : List Host.Cell) : Bool := ramWfFrom 0 m

/-- `RAM[off]` of the state, for an offset of the RAM region (R113, R131). -/
def readCell (s : State) (off : Address) : Byte := ramRead s.ram off.toNat

/-- `RAM[off] <- v` in the state (R113, R151). -/
def writeCell (s : State) (off : Address) (v : Byte) : State := { s with ram := ramWrite s.ram off.toNat v }

/-- `emit`: an event at the end of the history (R5, R65). -/
def emit (s : State) (e : Event) : State := { s with history := s.history ++ [e] }

/-- A response goes out on the response port (R33, R84). -/
def respond (s : State) (st : Status) (d : Data) (p : Option (List Byte)) : State :=
  { s with responses := s.responses ++ [⟨st, d, p⟩] }

/-- An operation completes: STATUS OK and its data (R84). -/
def complete (s : State) (d : Data) : Result := .next (respond s .ok d none)

/-- TAKING AN EXCEPTION (R218): the response carries its status, RDATA 0 and no payload, and nothing else changes. There is
no return from one: the next request is accepted (R219). -/
def raise (s : State) (st : Status) : Result := .next (respond s st 0#16 none)

/-- The guard of every operation but COLD_RESET (R25, R214, R217): while PWR = 0 it raises NotPoweredOn. -/
def powered (s : State) (r : Result) : Result := if s.pwr then r else raise s .notPoweredOn

/-- The label of an address in a watch mapping (R27, R171). -/
def watchLabel : WatchMap → Address → Option String
  | [], _ => none
  | e :: m, a => if e.1 = a then some e.2 else watchLabel m a

/-- MONITOR(A, V) (R170 to R175): a trace event where the raw write address is watched, nothing else ever. -/
def monitor (s : State) (a : Address) (v : Byte) : State :=
  match watchLabel s.watchMap a with
  | some l => emit s (.trace l v)
  | none => s

/-- Whether an event is a trace event. -/
def isTrace : Event → Bool
  | .call _ => false
  | .trace _ _ => true
  | .rebind => false

/-- A history without its trace events: what of it a handler could have seen, since nothing flows back from the trace port
(R35, R172). -/
def untraced (h : List Event) : List Event := h.filter fun e => !isTrace e

/-- The text of a trace line: the label, ` changed to: `, the value in unsigned decimal (R174, D15). -/
def traceText (label : String) (v : Byte) : String := label ++ " changed to: " ++ toString v.toNat

/-- What the reference of a unit holds (R26). -/
def bindingOf (b : Bind) : HandlerUnit → Binding
  | .video => b.video
  | .input => b.input
  | .audio => b.audio
  | .cartridge => b.cartridge

/-- The byte that a handler answers to a read call made now (R196): the next one the environment has ready, and where it has
none the oracle's, which sees the whole event history so far. A free value (log entry 4). -/
def nextAnswer (s : State) (c : HandlerCall) : Byte :=
  match s.answers with
  | b :: _ => b
  | [] => Config.oracle (bindingOf s.bind c.port) s.history c

/-- A call of a handler function that has no value (R34, R199). -/
def callHandler (s : State) (c : HandlerCall) : State := emit s (.call c)

/-- A call of a handler read function: its event, and the byte answered (R34, R196, R199). -/
def readHandler (s : State) (c : HandlerCall) : Byte × State :=
  (nextAnswer s c, { emit s (.call c) with answers := s.answers.tail })

/-- Both resets re-bind the four references together, with the one event Rebind and no handler call (R244). -/
def rebind (s : State) : State := emit { s with bind := ⟨.session, .session, .session, .session⟩ } .rebind

/-- Both resets rebuild the watch mapping from WATCH (R245). -/
def rebuildWatch (s : State) : State := { s with watchMap := s.watch }

/-- The fill and the patches of a cold reset (R241, R242). -/
def coldFill (s : State) : State := { s with ram := ramCold }

/-- `PWR <- 1` (R246). -/
def powerOn (s : State) : State := { s with pwr := true }

/-- Taking the presented request off the request port (R33); none where nothing is presented. -/
def takeRequest (s : State) : Option (Request × State) :=
  match s.requests with
  | [] => none
  | r :: rest => some (r, { s with requests := rest })

/-- No request is presented: the block does nothing (R23, R33; log entry 7). -/
def idle (s : State) : Result := .next s

/-- No row of the opcode table matches: status 15 (R212, U18). No 27-bit word brings it about (R90). -/
def rejectRequest (s : State) : Result := raise s .dispatchAssert

end Sys2Proof.Machine
end

