-- ==== Sys2Proof/Machine/Operands.lean ====
section
/-! DEFINITION. The operand forms: how an address becomes an offset (R85, R86, R113), the arms of RD8 (R131 to R138) and of
WR8 (R151 to R159) by region, the two operations over the whole address space, and the reads of a sprite DMA (R200, R201). -/

namespace Sys2Proof.Machine

/-- The Work RAM index of an address, `addr & 0x07FF` (R85, R113). -/
def ramOffset (a : Address) : Address := a &&& 0x07FF#16

/-- The Video register index of an address, `addr & 0x07` (R85, R113), as an offset. -/
def vidOffset (a : Address) : Address := a &&& 0x0007#16

/-- The 3-bit index that the Video Unit receives (R34, R85, R191). -/
def vidIndex (off : Address) : BitVec 3 := off.setWidth 3

/-- `addr +16 1` (R86, R142). -/
def nextAddr (a : Address) : Address := a + 1#16

/-- RD8, RAM arm (R131). -/
def readRam (off : Address) (s : State) : Byte × State := (readCell s off, s)

/-- RD8, Video-register arm (R132). -/
def readVid (off : Address) (s : State) : Byte × State := readHandler s (.vidRd (vidIndex off))

/-- RD8, Input arm (R133). -/
def readInp (a : Address) (s : State) : Byte × State := readHandler s (.inpRd a)

/-- RD8, the rest of the Low-I/O sub-range: the constant 0 and no call (R134). -/
def readLio (s : State) : Byte × State := (0#8, s)

/-- RD8, Extended-RAM arm (R135). -/
def readExr (a : Address) (s : State) : Byte × State := readHandler s (.cartRdx a)

/-- RD8, Save-RAM arm (R136). -/
def readSav (a : Address) (s : State) : Byte × State := readHandler s (.cartRds a)

/-- RD8, Program-ROM arm (R137). -/
def readPrg (a : Address) (s : State) : Byte × State := readHandler s (.cartRdp a)

/-- RD8 after its guard (R130): DECODE, then exactly one of the seven arms. -/
def read8 (a : Address) (s : State) : Byte × State :=
  match decodeAddr a with
  | (.ram, off) => readRam off s
  | (.vid, off) => readVid off s
  | (.lio, _) => if a = 0x4016#16 ∨ a = 0x4017#16 then readInp a s else readLio s
  | (.exr, _) => readExr a s
  | (.sav, _) => readSav a s
  | (.prg, _) => readPrg a s

/-- An RD8 completes with its byte, masked to 8 bits (R84, R138). -/
def completeRead (r : Byte × State) : Result := complete r.2 (byteData (mask8 r.1))

/-- One RD8 request of the Video Unit from inside `VID.dma`, answered at once (R201). -/
def nestedRead (a : Address) (s : State) : State :=
  respond (read8 a s).2 .ok (byteData (mask8 (read8 a s).1)) none

/-- The RD8 requests of the Video Unit from inside one `VID.dma`, in order (R201). -/
def nestedReads : List Address → State → State
  | [], s => s
  | a :: rest, s => nestedReads rest (nestedRead a s)

/-- Which RD8 requests those are: none under `after`; under `nested` a free value (R200, R201; log entry 6), which sees no
trace event (R35, R172). -/
def dmaAddrs (s : State) (v : Byte) : List Address :=
  match s.dmaNesting with
  | .after => []
  | .nested => Config.dmaReads s.bind.video s.ram s.answers (untraced s.history) v

/-- The call `VID.dma(v)` (R200): its event, then, before it returns, the Video Unit's own RD8 requests (R201). -/
def dmaCall (v : Byte) (s : State) : State :=
  nestedReads (dmaAddrs (callHandler s (.vidDma v)) v) (callHandler s (.vidDma v))

/-- WR8, RAM arm (R151). -/
def storeRam (off : Address) (v : Byte) (s : State) : State := writeCell s off (mask8 v)

/-- WR8, Video-register arm (R152). -/
def storeVid (off : Address) (v : Byte) (s : State) : State := callHandler s (.vidWr (vidIndex off) (mask8 v))

/-- WR8, the Audio Unit's part of every write in the Low-I/O sub-range (R156). -/
def storeAud (a : Address) (v : Byte) (s : State) : State := callHandler s (.audWr a (mask8 v))

/-- WR8, sprite-DMA trigger: `VID.dma(v)`, then the Audio Unit (R153, D11). -/
def storeDma (v : Byte) (s : State) : State := storeAud 0x4014#16 v (dmaCall (mask8 v) s)

/-- WR8, Input arm: `INP.wr(addr, v)`, then the Audio Unit (R154, D11). -/
def storeInp (a : Address) (v : Byte) (s : State) : State := storeAud a v (callHandler s (.inpWr a (mask8 v)))

/-- WR8, Extended-RAM arm (R157). -/
def storeExr (a : Address) (v : Byte) (s : State) : State := callHandler s (.cartWrx a (mask8 v))

/-- WR8, Save-RAM arm (R158). -/
def storeSav (a : Address) (v : Byte) (s : State) : State := callHandler s (.cartWrs a (mask8 v))

/-- WR8, Program-ROM arm (R159). -/
def storePrg (a : Address) (v : Byte) (s : State) : State := callHandler s (.cartWrp a (mask8 v))

/-- WR8 after its guard (R150): the monitor first, on the raw address, then DECODE and exactly one of the eight arms. -/
def write8 (a : Address) (v : Byte) (s : State) : State :=
  match decodeAddr a with
  | (.ram, off) => storeRam off v (monitor s a v)
  | (.vid, off) => storeVid off v (monitor s a v)
  | (.lio, _) =>
    if a = 0x4014#16 then storeDma v (monitor s a v)
    else if a = 0x4016#16 ∨ a = 0x4017#16 then storeInp a v (monitor s a v)
    else storeAud a v (monitor s a v)
  | (.exr, _) => storeExr a v (monitor s a v)
  | (.sav, _) => storeSav a v (monitor s a v)
  | (.prg, _) => storePrg a v (monitor s a v)

/-- A WR8 completes: no return value (R160). -/
def completeWrite (s : State) : Result := complete s 0#16

end Sys2Proof.Machine
end

