-- ==== Sys2Proof/Machine/Read.lean ====
section
/-! DEFINITION. The read path: the seven RD8 rows and RD16 (41_read_path.md). -/

namespace Sys2Proof.Machine

/-- RD8.RAM (R131). -/
def execRd8Ram (a : Address) (s : State) : Result := powered s (completeRead (readRam (ramOffset a) s))

/-- RD8.VID (R132). -/
def execRd8Vid (a : Address) (s : State) : Result := powered s (completeRead (readVid (vidOffset a) s))

/-- RD8.INP (R133). -/
def execRd8Inp (a : Address) (s : State) : Result := powered s (completeRead (readInp a s))

/-- RD8.LIO (R134): the address takes no part, the answer is the constant 0. -/
def execRd8Lio (_a : Address) (s : State) : Result := powered s (completeRead (readLio s))

/-- RD8.EXR (R135). -/
def execRd8Exr (a : Address) (s : State) : Result := powered s (completeRead (readExr a s))

/-- RD8.SAV (R136). -/
def execRd8Sav (a : Address) (s : State) : Result := powered s (completeRead (readSav a s))

/-- RD8.PRG (R137). -/
def execRd8Prg (a : Address) (s : State) : Result := powered s (completeRead (readPrg a s))

/-- RD16 after its guard (R140, R142): the RD8 at `addr` first, then, in the state it leaves, the RD8 at `addr +16 1`. -/
def read16 (a : Address) (s : State) : Data × State :=
  (wordData (mask8 (read8 a s).1) (mask8 (read8 (nextAddr a) (read8 a s).2).1), (read8 (nextAddr a) (read8 a s).2).2)

/-- RD16 (R140): the guard is tested once, before either read. -/
def execRd16 (a : Address) (s : State) : Result := powered s (complete (read16 a s).2 (read16 a s).1)

end Sys2Proof.Machine
end

