-- ==== Sys2Proof/Machine/Reset.lean ====
section
/-! DEFINITION. The two entry modes of the reset sequencer (R240). -/

namespace Sys2Proof.Machine

/-- COLD_RESET (R241): fill and patch Work RAM, re-bind, rebuild the watch mapping, set PWR. Accepted in every state. -/
def execColdReset (s : State) : Result := complete (powerOn (rebuildWatch (rebind (coldFill s)))) 0#16

/-- WARM_RESET (R243): re-bind and rebuild the watch mapping; Work RAM and PWR are left. NotPoweredOn while PWR = 0 (R247). -/
def execWarmReset (s : State) : Result := powered s (complete (rebuildWatch (rebind s)) 0#16)

end Sys2Proof.Machine
end

