-- ==== Sys2Proof/Machine/Snapshot.lean ====
section
/-! DEFINITION. The snapshot engine (44_snapshot.md) and the reserved operation code (R88). -/

namespace Sys2Proof.Machine

/-- CAPTURE (R180, R181): the response carries the 2048 cells in ascending order; no state changes. -/
def execCapture (s : State) : Result :=
  powered s (.next (respond s .ok 0#16 (some (ramDump s.ram 0 ramSize))))

/-- RESTORE (R182, R183): a payload of 2048 bytes replaces every cell; any other length raises SnapshotLengthError before a
cell is written. -/
def execRestore (payload : List Byte) (s : State) : Result :=
  powered s (if payload.length = ramSize then complete { s with ram := ramLoad 0 payload } 0#16
    else raise s .snapshotLengthError)

/-- ILLEGAL (R88, R213): IllegalOp, whatever the other fields of the word held. -/
def execIllegal (s : State) : Result := powered s (raise s .illegalOp)

end Sys2Proof.Machine
end

