-- ==== Sys2Proof/Machine/Write.lean ====
section
/-! DEFINITION. The write path: the eight WR8 rows (42_write_path.md). In each the monitor runs first, after the guard and
before the effect, on the raw address (R150, R170, R175). -/

namespace Sys2Proof.Machine

/-- WR8.RAM (R151). -/
def execWr8Ram (a : Address) (v : Byte) (s : State) : Result :=
  powered s (completeWrite (storeRam (ramOffset a) v (monitor s a v)))

/-- WR8.VID (R152). -/
def execWr8Vid (a : Address) (v : Byte) (s : State) : Result :=
  powered s (completeWrite (storeVid (vidOffset a) v (monitor s a v)))

/-- WR8.DMA (R153): the address is 0x4014. -/
def execWr8Dma (v : Byte) (s : State) : Result :=
  powered s (completeWrite (storeDma v (monitor s 0x4014#16 v)))

/-- WR8.INP (R154). -/
def execWr8Inp (a : Address) (v : Byte) (s : State) : Result :=
  powered s (completeWrite (storeInp a v (monitor s a v)))

/-- WR8.AUD (R155). -/
def execWr8Aud (a : Address) (v : Byte) (s : State) : Result :=
  powered s (completeWrite (storeAud a v (monitor s a v)))

/-- WR8.EXR (R157). -/
def execWr8Exr (a : Address) (v : Byte) (s : State) : Result :=
  powered s (completeWrite (storeExr a v (monitor s a v)))

/-- WR8.SAV (R158). -/
def execWr8Sav (a : Address) (v : Byte) (s : State) : Result :=
  powered s (completeWrite (storeSav a v (monitor s a v)))

/-- WR8.PRG (R159). -/
def execWr8Prg (a : Address) (v : Byte) (s : State) : Result :=
  powered s (completeWrite (storePrg a v (monitor s a v)))

end Sys2Proof.Machine
end

