-- ==== Sys2Proof/Machine/Dispatch.lean ====
section
/-! DEFINITION. One arm per instruction. -/

namespace Sys2Proof.Machine

def exec (i : Instr) (s : State) : Host.Outcome State Fault Refusal :=
  match i with
  | .coldReset => Sys2Proof.Machine.execColdReset s
  | .warmReset => Sys2Proof.Machine.execWarmReset s
  | .rd8Ram a => Sys2Proof.Machine.execRd8Ram a s
  | .rd8Vid a => Sys2Proof.Machine.execRd8Vid a s
  | .rd8Inp a => Sys2Proof.Machine.execRd8Inp a s
  | .rd8Lio a => Sys2Proof.Machine.execRd8Lio a s
  | .rd8Exr a => Sys2Proof.Machine.execRd8Exr a s
  | .rd8Sav a => Sys2Proof.Machine.execRd8Sav a s
  | .rd8Prg a => Sys2Proof.Machine.execRd8Prg a s
  | .wr8Ram a v => Sys2Proof.Machine.execWr8Ram a v s
  | .wr8Vid a v => Sys2Proof.Machine.execWr8Vid a v s
  | .wr8Dma v => Sys2Proof.Machine.execWr8Dma v s
  | .wr8Inp a v => Sys2Proof.Machine.execWr8Inp a v s
  | .wr8Aud a v => Sys2Proof.Machine.execWr8Aud a v s
  | .wr8Exr a v => Sys2Proof.Machine.execWr8Exr a v s
  | .wr8Sav a v => Sys2Proof.Machine.execWr8Sav a v s
  | .wr8Prg a v => Sys2Proof.Machine.execWr8Prg a v s
  | .rd16 a => Sys2Proof.Machine.execRd16 a s
  | .capture => Sys2Proof.Machine.execCapture s
  | .restore payload => Sys2Proof.Machine.execRestore payload s
  | .illegal => Sys2Proof.Machine.execIllegal s

end Sys2Proof.Machine
end

