-- ==== Sys2Proof/Machine/Step.lean ====
section
/-! DEFINITION. One step: the presented request is taken, decoded and performed completely (R5, R33, R62). -/

namespace Sys2Proof.Machine

/-- One step of the block (R5): with no request presented it idles; else the request is taken off the port, its word decoded
(R90) and its instruction performed. -/
def step (s : State) : Host.Outcome State Fault Refusal :=
  match takeRequest s with
  | none => idle s
  | some (r, t) =>
    match decode r.word r.payload with
    | .ok i => exec i t
    | .error _ => rejectRequest t

/-- The state with a request presented as the next one: its word is `w`, numbered as the opcode table numbers its bits, the
bits above `nbits` 0, its payload empty (log entry 8). -/
def State.withFetchWord (s : State) (nbits w : Nat) : State :=
  { s with requests := ⟨BitVec.ofNat 27 (w % 2 ^ nbits), []⟩ :: s.requests }

end Sys2Proof.Machine
end

