-- ==== Sys2Proof/Safety.lean ====
section
/-! DEFINITION. The terms in which claims speak: the invariant of a state, the legal responses and handler calls, the trace
event of a write, the inventory of handler calls (R199), and the canonical request word (R83). -/

namespace Sys2Proof.Machine

/-- A watch mapping has at most one label per address (R27, R177). -/
def WatchWf (m : WatchMap) : Prop := (m.map Prod.fst).Nodup

/-- All four references unbound: BIND before the first reset (R20). -/
def bindNone : Bind := ⟨.unbound, .unbound, .unbound, .unbound⟩

/-- All four references bound to the session's units: BIND after every reset (R20, R244). -/
def bindSession : Bind := ⟨.session, .session, .session, .session⟩

/-- The invariant of the block's state (R20, R25, R26, R27): Work RAM in canonical form, WATCH well formed; after the first
cold reset the references are bound and WATCHMAP is WATCH; before it they are unbound, WATCHMAP is empty and nothing has
gone out on a handler or trace port. -/
structure Inv (s : State) : Prop where
  ram_wf : Memory.wf s.ram = true
  watch_wf : WatchWf s.watch
  on : s.pwr = true → s.bind = bindSession ∧ s.watchMap = s.watch
  off : s.pwr = false → s.bind = bindNone ∧ s.watchMap = [] ∧ s.history = []

/-- A response that R84 and R210 allow: never the status DispatchAssert, RDATA 0 and no payload unless OK, and a payload is
2048 bytes beside RDATA 0 (R180). -/
def ResponseLegal (r : Response) : Prop :=
  r.status ≠ .dispatchAssert ∧ (r.status ≠ .ok → r.rdata = 0#16 ∧ r.payload = none) ∧
    (∀ p, r.payload = some p → p.length = 2048 ∧ r.rdata = 0#16)

/-- The arguments with which the block may call a handler (R191 to R194). -/
def CallLegal : HandlerCall → Prop
  | .vidRd _ => True
  | .vidWr _ _ => True
  | .vidDma _ => True
  | .inpRd a => a = 0x4016#16 ∨ a = 0x4017#16
  | .inpWr a _ => a = 0x4016#16 ∨ a = 0x4017#16
  | .audWr a _ => 0x4000 ≤ a.toNat ∧ a.toNat < 0x4020
  | .cartRdx a => 0x4020 ≤ a.toNat ∧ a.toNat < 0x6000
  | .cartWrx a _ => 0x4020 ≤ a.toNat ∧ a.toNat < 0x6000
  | .cartRds a => 0x6000 ≤ a.toNat ∧ a.toNat < 0x8000
  | .cartWrs a _ => 0x6000 ≤ a.toNat ∧ a.toNat < 0x8000
  | .cartRdp a => 0x8000 ≤ a.toNat
  | .cartWrp a _ => 0x8000 ≤ a.toNat

/-- Every handler call of a history is legal. -/
def CallsLegal (h : List Event) : Prop := ∀ c, Event.call c ∈ h → CallLegal c

/-- The trace event of a write, if any: at most one (R171). -/
def traceEvents (s : State) (a : Address) (v : Byte) : List Event :=
  match watchLabel s.watchMap a with
  | some l => [.trace l v]
  | none => []

/-- Whether an event is a call of the Audio Unit. -/
def isAudio : Event → Bool
  | .call c => c.port == .audio
  | .trace _ _ => false
  | .rebind => false

/-- The handler calls of an RD8 at an address, by the ranges of the address map (R51, R199). -/
def readCalls (a : Address) : List HandlerCall :=
  if a.toNat < 0x2000 then []
  else if a.toNat < 0x4000 then [.vidRd (a.setWidth 3)]
  else if a.toNat < 0x4020 then (if a.toNat = 0x4016 ∨ a.toNat = 0x4017 then [.inpRd a] else [])
  else if a.toNat < 0x6000 then [.cartRdx a]
  else if a.toNat < 0x8000 then [.cartRds a]
  else [.cartRdp a]

/-- The bytes that RD8 requests at these addresses, one after another, answer (R130, R201). -/
def readBytes : List Address → State → List Byte
  | [], _ => []
  | a :: rest, s => (read8 a s).1 :: readBytes rest (read8 a s).2

/-- Two states that differ at most in WATCH and WATCHMAP, in trace events, and in the data of responses (which may hold bytes
of handlers): the two sides of a run with and without the monitor (R172). -/
structure SameButTraces (s u : State) : Prop where
  ram : u.ram = s.ram
  pwr : u.pwr = s.pwr
  bind : u.bind = s.bind
  dmaNesting : u.dmaNesting = s.dmaNesting
  requests : u.requests = s.requests
  answers : u.answers = s.answers
  history : untraced u.history = untraced s.history
  responses : u.responses.map (fun r => (r.status, r.payload)) = s.responses.map (fun r => (r.status, r.payload))

/-- The inventory of handler calls (R199): which calls an instruction makes, in order; a sprite DMA's own two. -/
def callsOf : Instr → List HandlerCall
  | .coldReset => []
  | .warmReset => []
  | .rd8Ram _ => []
  | .rd8Vid a => [.vidRd (a.setWidth 3)]
  | .rd8Inp a => [.inpRd a]
  | .rd8Lio _ => []
  | .rd8Exr a => [.cartRdx a]
  | .rd8Sav a => [.cartRds a]
  | .rd8Prg a => [.cartRdp a]
  | .wr8Ram _ _ => []
  | .wr8Vid a v => [.vidWr (a.setWidth 3) v]
  | .wr8Dma v => [.vidDma v, .audWr 0x4014#16 v]
  | .wr8Inp a v => [.inpWr a v, .audWr a v]
  | .wr8Aud a v => [.audWr a v]
  | .wr8Exr a v => [.cartWrx a v]
  | .wr8Sav a v => [.cartWrs a v]
  | .wr8Prg a v => [.cartWrp a v]
  | .rd16 a => readCalls a ++ readCalls (a + 1#16)
  | .capture => []
  | .restore _ => []
  | .illegal => []

/-- The handler call of an event, if it is one. -/
def eventCall : Event → Option HandlerCall
  | .call c => some c
  | .trace _ _ => none
  | .rebind => none

/-- The events that a step appended to the history. -/
def newEvents (s t : State) : List Event := t.history.drop s.history.length

/-- The responses that a step appended. -/
def newResponses (s t : State) : List Response := t.responses.drop s.responses.length

/-- The address of a WR8 row's instruction and its value; none for every other instruction (R90). -/
def writeOf : Instr → Option (Address × Byte)
  | .coldReset => none
  | .warmReset => none
  | .rd8Ram _ => none
  | .rd8Vid _ => none
  | .rd8Inp _ => none
  | .rd8Lio _ => none
  | .rd8Exr _ => none
  | .rd8Sav _ => none
  | .rd8Prg _ => none
  | .wr8Ram a v => some (a, v)
  | .wr8Vid a v => some (a, v)
  | .wr8Dma v => some (0x4014#16, v)
  | .wr8Inp a v => some (a, v)
  | .wr8Aud a v => some (a, v)
  | .wr8Exr a v => some (a, v)
  | .wr8Sav a v => some (a, v)
  | .wr8Prg a v => some (a, v)
  | .rd16 _ => none
  | .capture => none
  | .restore _ => none
  | .illegal => none

/-- A request word with every field its operation does not use driven to 0 (R81, R83). -/
def canonicalWord (w : ReqWord) : ReqWord :=
  if opField w = 1#3 then w
  else if opField w = 0#3 ∨ opField w = 2#3 then reqWord (opField w) (addrField w) 0#8
  else reqWord (opField w) 0#16 0#8

/-- The contents of a cell after a cold reset (R242). -/
def coldCell (i : Nat) : Byte :=
  match i with
  | 0x08 => 0xF7#8
  | 0x09 => 0xEF#8
  | 0x0A => 0xDF#8
  | 0x0F => 0xBF#8
  | _ => 0xFF#8

end Sys2Proof.Machine
end

