-- ==== Sys2Proof/Certificates/Slice0/Obligations.lean ====
section
/-! DEFINITION. The statements for the provers. A response is written `⟨status, data, payload⟩`; `s.history ++ …` and
`s.responses ++ …` say what a step appends, and a next state written `{ s with … }` says with it that every other field of
the state is unchanged (the frame). -/

open Sys2Proof Sys2Proof.Machine

/-! Encoding and decoding -/

/-- Decode and encode agree: the canonical request of every well-formed instruction decodes to it, with every operand at
every value its row admits (R80, R81, R90). -/
def Obligations.DecodeOfEncodeIsInstruction : Prop :=
  ∀ i : Instr, i.wf = true → decode (encode i).word (encode i).payload = .ok i

/-- The other direction: what a word decodes to encodes to that word with its unused fields driven to 0, and to its payload
where it is a RESTORE (R81, R83, R89). -/
def Obligations.EncodeOfDecodeIsCanonicalWord : Prop :=
  ∀ (w : ReqWord) (p : List Byte) (i : Instr), decode w p = .ok i →
    (encode i).word = canonicalWord w ∧ (encode i).payload = if opField w = 4#3 then p else []

/-- R90, R87: no request word is without a row, and the row selected admits the word's operands. -/
def Obligations.EveryWordSelectsARow : Prop :=
  ∀ (w : ReqWord) (p : List Byte), ∃ i, decode w p = .ok i ∧ i.wf = true

/-- R90: a word fits two rows of the table only in the three places where a special address lies inside a wider range (rows
5 to 7; rows 12 and 13 with 14 and 15). -/
def Obligations.RowsOverlapOnlyInThreePlaces : Prop :=
  ∀ (w : ReqWord) (j k : Nat) (r q : OpcodeRow), j < k → opcodeRows[j]? = some r → opcodeRows[k]? = some q →
    r.takes w = true → q.takes w = true →
    (j + 1, k + 1) ∈ [(5, 6), (5, 7), (6, 7), (12, 14), (12, 15), (13, 14), (13, 15), (14, 15)]

/-- R83: WDATA is ignored by RD8 and RD16, ADDR and WDATA by CAPTURE, RESTORE and the resets, and the canonical word, which
drives unused fields to 0, decodes to the same instruction. -/
def Obligations.UnusedFieldsAreIgnored : Prop :=
  (∀ (op : BitVec 3) (a : Address) (v v' : Byte) (p : List Byte), op = 0#3 ∨ op = 2#3 →
      decode (reqWord op a v) p = decode (reqWord op a v') p) ∧
  (∀ (op : BitVec 3) (a a' : Address) (v v' : Byte) (p : List Byte), op = 3#3 ∨ op = 4#3 ∨ op = 6#3 ∨ op = 7#3 →
      decode (reqWord op a v) p = decode (reqWord op a' v') p) ∧
  (∀ (w : ReqWord) (p : List Byte), decode (canonicalWord w) p = decode w p)

/-- Words of the table V-ENC (95_test_vectors.md), one per row and the special addresses, decode to their instruction (a
sanity statement). Two things are the model's choice, log entry 8, and not V-ENC's: that `decodeTableWord` numbers the bits as
REQ does and takes 32 of them, and that the RESTORE it gives has the empty payload. -/
def Obligations.TableWordsDecode : Prop :=
  decodeTableWord 32 0x7FFFFFF = some .coldReset ∧ decodeTableWord 32 0x6ABCDEF = some .warmReset ∧
  decodeTableWord 32 0x01FFFFF = some (.rd8Ram 0x1FFF#16) ∧ decodeTableWord 32 0x0200000 = some (.rd8Vid 0x2000#16) ∧
  decodeTableWord 32 0x0401700 = some (.rd8Inp 0x4017#16) ∧ decodeTableWord 32 0x0401800 = some (.rd8Lio 0x4018#16) ∧
  decodeTableWord 32 0x0402000 = some (.rd8Exr 0x4020#16) ∧ decodeTableWord 32 0x07FFF00 = some (.rd8Sav 0x7FFF#16) ∧
  decodeTableWord 32 0x0800000 = some (.rd8Prg 0x8000#16) ∧ decodeTableWord 32 0x11FFF77 = some (.wr8Ram 0x1FFF#16 0x77#8) ∧
  decodeTableWord 32 0x1200610 = some (.wr8Vid 0x2006#16 0x10#8) ∧ decodeTableWord 32 0x1401402 = some (.wr8Dma 0x02#8) ∧
  decodeTableWord 32 0x14017C0 = some (.wr8Inp 0x4017#16 0xC0#8) ∧ decodeTableWord 32 0x1401502 = some (.wr8Aud 0x4015#16 0x02#8) ∧
  decodeTableWord 32 0x1402055 = some (.wr8Exr 0x4020#16 0x55#8) ∧ decodeTableWord 32 0x16000AA = some (.wr8Sav 0x6000#16 0xAA#8) ∧
  decodeTableWord 32 0x1FFFFFF = some (.wr8Prg 0xFFFF#16 0xFF#8) ∧ decodeTableWord 32 0x200FF00 = some (.rd16 0x00FF#16) ∧
  decodeTableWord 32 0x3123456 = some .capture ∧ decodeTableWord 32 0x4000000 = some (.restore []) ∧
  decodeTableWord 32 0x5FFFFFF = some .illegal

/-- R114: over all addresses the mask tests of DECODE and the closed-open ranges classify alike. -/
def Obligations.RegionsAreTheRanges : Prop :=
  ∀ a : Address,
    ((decodeAddr a).1 = .ram ↔ a.toNat < 0x2000) ∧
    ((decodeAddr a).1 = .vid ↔ 0x2000 ≤ a.toNat ∧ a.toNat < 0x4000) ∧
    ((decodeAddr a).1 = .lio ↔ 0x4000 ≤ a.toNat ∧ a.toNat < 0x4020) ∧
    ((decodeAddr a).1 = .exr ↔ 0x4020 ≤ a.toNat ∧ a.toNat < 0x6000) ∧
    ((decodeAddr a).1 = .sav ↔ 0x6000 ≤ a.toNat ∧ a.toNat < 0x8000) ∧
    ((decodeAddr a).1 = .prg ↔ 0x8000 ≤ a.toNat)

/-- R113: the offset DECODE passes on: the address modulo 2048 in the RAM region, modulo 8 in the Video region, the address
itself elsewhere. -/
def Obligations.OffsetsByRegion : Prop :=
  ∀ a : Address,
    (decodeAddr a).2.toNat =
      if a.toNat < 0x2000 then a.toNat % 2048 else if a.toNat < 0x4000 then a.toNat % 8 else a.toNat

/-- R84, R210: the fields of the response word, and the code of every status. -/
def Obligations.ResponseWordFields : Prop :=
  (∀ r : Response, r.word.extractLsb' 16 4 = r.status.code ∧ r.word.extractLsb' 0 16 = r.rdata) ∧
  Status.ok.code = 0#4 ∧ Status.snapshotLengthError.code = 1#4 ∧ Status.illegalOp.code = 2#4 ∧
  Status.notPoweredOn.code = 3#4 ∧ Status.dispatchAssert.code = 15#4

/-- R199, third column: the handler call words. -/
def Obligations.HandlerCallWords : Prop :=
  ∀ (i : BitVec 3) (a : Address) (v : Byte),
    (HandlerCall.vidRd i).word.toNat = i.toNat * 256 ∧
    (HandlerCall.vidWr i v).word.toNat = 0x1000000 + i.toNat * 256 + v.toNat ∧
    (HandlerCall.vidDma v).word.toNat = 0x2000000 + v.toNat ∧
    (HandlerCall.inpRd a).word.toNat = 0x3000000 + a.toNat * 256 ∧
    (HandlerCall.inpWr a v).word.toNat = 0x4000000 + a.toNat * 256 + v.toNat ∧
    (HandlerCall.audWr a v).word.toNat = 0x5000000 + a.toNat * 256 + v.toNat ∧
    (HandlerCall.cartRdx a).word.toNat = 0x6000000 + a.toNat * 256 ∧
    (HandlerCall.cartWrx a v).word.toNat = 0x7000000 + a.toNat * 256 + v.toNat ∧
    (HandlerCall.cartRds a).word.toNat = 0x8000000 + a.toNat * 256 ∧
    (HandlerCall.cartWrs a v).word.toNat = 0x9000000 + a.toNat * 256 + v.toNat ∧
    (HandlerCall.cartRdp a).word.toNat = 0xA000000 + a.toNat * 256 ∧
    (HandlerCall.cartWrp a v).word.toNat = 0xB000000 + a.toNat * 256 + v.toNat

/-- R195: the word of a handler call tells the call: no two calls have one word. -/
def Obligations.HandlerCallWordIsInjective : Prop :=
  ∀ c d : HandlerCall, c.word = d.word → c = d

/-! The step -/

/-- R5, R33: a step performs the decoded instruction of the presented request, which it takes off the request port. -/
def Obligations.StepRunsDecodedInstruction : Prop :=
  ∀ (s : State) (r : Request) (rest : List Request) (i : Instr), s.requests = r :: rest →
    decode r.word r.payload = .ok i → step s = exec i { s with requests := rest }

/-- With no request presented a step changes nothing (R23). That there is such a step at all is the model's choice (log
entry 7). -/
def Obligations.IdleStepChangesNothing : Prop :=
  ∀ s : State, s.requests = [] → step s = .next s

/-- Every presented request is performed to its end and answered by one response of its own (R33, R219, R265): no state and
no word stops the machine. Before it there stand only the OK responses to the Video Unit's RD8 from inside a sprite DMA
(R201), and only under `nested`; that they come first in the log is the model's choice (log entry 6). -/
def Obligations.EveryRequestIsAnsweredOnce : Prop :=
  ∀ (s : State) (r : Request) (rest : List Request), s.requests = r :: rest →
    ∃ (t : State) (rs : List Response) (own : Response),
      step s = .next t ∧ t.requests = rest ∧ t.responses = s.responses ++ rs ++ [own] ∧
      (∀ q ∈ rs, q.status = .ok ∧ q.payload = none) ∧
      (rs ≠ [] → s.pwr = true ∧ s.dmaNesting = .nested ∧ ∃ v, decode r.word r.payload = .ok (.wr8Dma v))

/-- The invariant of the block's state is kept by every step (R20, R25 to R27). The canonical form of Work RAM in it is the
model's own (log entry 1). -/
def Obligations.EveryStepKeepsBlockInvariant : Prop :=
  ∀ s t : State, Inv s → step s = .next t → Inv t

/-- The responses stay legal (R84, R210): no step ever answers DispatchAssert, data without OK, or a payload of another
length than 2048. -/
def Obligations.EveryStepKeepsResponsesLegal : Prop :=
  ∀ s t : State, (∀ r ∈ s.responses, ResponseLegal r) → step s = .next t → ∀ r ∈ t.responses, ResponseLegal r

/-- The handler calls stay legal (R191 to R194): every call of every step has its argument in the range of its function. -/
def Obligations.EveryStepKeepsCallsLegal : Prop :=
  ∀ s t : State, CallsLegal s.history → step s = .next t → CallsLegal t.history

/-- The three invariants hold at power-up and right after reset. It rests on choices of the model: the canonical form of Work
RAM (log entry 1), its content at power-up, which the spec leaves without a value (log entry 2), what State.reset is (log
entry 3), and WATCH made well formed (log entry 5). -/
def Obligations.ResetAndPowerUpMeetInvariants : Prop :=
  (Inv State.reset ∧ Inv State.powerUp) ∧
  (∀ r ∈ State.reset.responses, ResponseLegal r) ∧ (∀ r ∈ State.powerUp.responses, ResponseLegal r) ∧
  CallsLegal State.reset.history ∧ CallsLegal State.powerUp.history

/-- No instruction changes the parameters WATCH and DMA_READ_NESTING (R7, R173), and none takes a request off the list of the
coming ones. The latter is the model's choice: the RD8 requests that R201 lets a sprite DMA accept under `nested` do not come
from that list but from a free value (log entries 6 and 7). -/
def Obligations.ParametersAndRequestsAreKept : Prop :=
  ∀ (i : Instr) (s t : State), exec i s = .next t →
    t.watch = s.watch ∧ t.dmaNesting = s.dmaNesting ∧ t.requests = s.requests

/-- What an operation has put out stays: history and responses only grow (R65). That both are kept as logs is the model's
choice (log entry 9). -/
def Obligations.HistoryAndResponsesOnlyGrow : Prop :=
  ∀ (i : Instr) (s t : State), exec i s = .next t →
    (∃ es, t.history = s.history ++ es) ∧ (∃ rs, t.responses = s.responses ++ rs)

/-! The resets -/

/-- COLD_RESET completes from every state and leaves the fresh state (R241, R242, R244 to R246). -/
def Obligations.ColdResetLeavesFreshState : Prop :=
  ∀ s : State, ∃ t : State, exec .coldReset s = .next t ∧
    (∀ j, j < 2048 → ramRead t.ram j = coldCell j) ∧
    t = { s with ram := t.ram, pwr := true, bind := bindSession, watchMap := s.watch,
                 history := s.history ++ [.rebind], responses := s.responses ++ [⟨.ok, 0#16, none⟩] }

/-- The reset state is what COLD_RESET makes of the power-up state (R248, R251). Where a run starts (log entry 3) and what
Work RAM holds at power-up (log entry 2) are the model's choices. -/
def Obligations.PowerUpThenColdResetIsReset : Prop :=
  exec .coldReset State.powerUp = .next State.reset

/-- R248: the values of the state at power-up and after a cold reset. -/
def Obligations.PowerUpAndResetValues : Prop :=
  (∀ j, j < 2048 → ramRead State.reset.ram j = coldCell j) ∧ State.reset.pwr = true ∧
  State.reset.bind = bindSession ∧ State.reset.watchMap = State.reset.watch ∧
  State.powerUp.pwr = false ∧ State.powerUp.bind = bindNone ∧ State.powerUp.watchMap = []

/-- WARM_RESET completes while PWR = 1: it re-binds, rebuilds the watch mapping, emits Rebind and leaves Work RAM and PWR
(R243). -/
def Obligations.WarmResetKeepsRam : Prop :=
  ∀ s : State, s.pwr = true →
    exec .warmReset s = .next { s with
      bind := bindSession,
      watchMap := s.watch,
      history := s.history ++ [.rebind],
      responses := s.responses ++ [⟨.ok, 0#16, none⟩] }

/-- R246: COLD_RESET sets PWR to 1 and nothing else writes PWR. -/
def Obligations.OnlyColdResetWritesPwr : Prop :=
  (∀ s : State, ∃ t, exec .coldReset s = .next t ∧ t.pwr = true) ∧
  (∀ (i : Instr) (s t : State), i ≠ .coldReset → exec i s = .next t → t.pwr = s.pwr)

/-- R245: after either reset WATCHMAP is WATCH, WATCH is fixed, and between resets nothing changes WATCHMAP; the references of
BIND likewise change only at resets. -/
def Obligations.WatchMapAndBindChangeOnlyAtResets : Prop :=
  (∀ s : State, ∃ t, exec .coldReset s = .next t ∧ t.watchMap = s.watch) ∧
  (∀ s : State, s.pwr = true → ∃ t, exec .warmReset s = .next t ∧ t.watchMap = s.watch) ∧
  (∀ (i : Instr) (s t : State), i ≠ .coldReset → i ≠ .warmReset → exec i s = .next t →
    t.watchMap = s.watchMap ∧ t.bind = s.bind) ∧
  (∀ (i : Instr) (s t : State), exec i s = .next t → t.watch = s.watch)

/-! Exceptions -/

/-- R214: while PWR = 0 everything but COLD_RESET is answered NotPoweredOn (status 3, data 0) and changes nothing; once PWR
is 1 it stays 1 and NotPoweredOn is never answered again. -/
def Obligations.NotPoweredOnRefusesAllButColdReset : Prop :=
  Status.notPoweredOn.code = 3#4 ∧
  (∀ (i : Instr) (s : State), s.pwr = false → i ≠ .coldReset →
    exec i s = .next { s with responses := s.responses ++ [⟨.notPoweredOn, 0#16, none⟩] }) ∧
  (∀ (i : Instr) (s t : State), s.pwr = true → exec i s = .next t →
    t.pwr = true ∧ ∀ r ∈ newResponses s t, r.status ≠ .notPoweredOn)

/-- R213, R88: every request with OP = 5, whatever its other fields, is answered IllegalOp (status 2, data 0) while PWR = 1,
and nothing changes but that the request is taken. -/
def Obligations.ReservedCodeAnswersIllegalOp : Prop :=
  Status.illegalOp.code = 2#4 ∧
  (∀ (w : ReqWord) (p : List Byte), opField w = 5#3 → decode w p = .ok .illegal) ∧
  (∀ s : State, s.pwr = true →
    exec .illegal s = .next { s with responses := s.responses ++ [⟨.illegalOp, 0#16, none⟩] }) ∧
  (∀ (s : State) (r : Request) (rest : List Request), s.requests = r :: rest → opField r.word = 5#3 → s.pwr = true →
    step s = .next { s with
      requests := rest,
      responses := s.responses ++ [⟨.illegalOp, 0#16, none⟩] })

/-- R217: which exception a request reports, in the order of priority: NotPoweredOn for everything but COLD_RESET, then
IllegalOp, then SnapshotLengthError; COLD_RESET none, and no other request any. -/
def Obligations.ExceptionPriority : Prop :=
  ∀ (i : Instr) (s t : State), exec i s = .next t →
    ∃ (rs : List Response) (own : Response), t.responses = s.responses ++ rs ++ [own] ∧ (∀ q ∈ rs, q.status = .ok) ∧
      (i = .coldReset → own.status = .ok) ∧
      (i ≠ .coldReset → s.pwr = false → own.status = .notPoweredOn) ∧
      (i = .illegal → s.pwr = true → own.status = .illegalOp) ∧
      (∀ p, i = .restore p → p.length ≠ 2048 → s.pwr = true → own.status = .snapshotLengthError) ∧
      (i ≠ .illegal → (∀ p, i = .restore p → p.length = 2048) → s.pwr = true → own.status = .ok)

/-- R183: a RESTORE of any other length than 2048 answers SnapshotLengthError (status 1, data 0) and writes nothing. -/
def Obligations.RestoreOfWrongLengthWritesNothing : Prop :=
  Status.snapshotLengthError.code = 1#4 ∧
  ∀ (p : List Byte) (s : State), s.pwr = true → p.length ≠ 2048 →
    exec (.restore p) s = .next { s with responses := s.responses ++ [⟨.snapshotLengthError, 0#16, none⟩] }

/-- R211: SnapshotLengthError is answered by RESTORE and by nothing else, exactly when the length is not 2048 (and the
guard of R214, which comes first, has passed). -/
def Obligations.SnapshotLengthErrorOnlyFromRestore : Prop :=
  ∀ (i : Instr) (s t : State), exec i s = .next t →
    ((∃ r ∈ newResponses s t, r.status = .snapshotLengthError) ↔
      s.pwr = true ∧ ∃ p, i = .restore p ∧ p.length ≠ 2048)

/-- R218: an operation that raises an exception answers data 0 and no payload and leaves the whole state as it was. -/
def Obligations.ExceptionsArePrecise : Prop :=
  ∀ (i : Instr) (s t : State) (r : Response), exec i s = .next t → r ∈ newResponses s t → r.status ≠ .ok →
    r.rdata = 0#16 ∧ r.payload = none ∧ t = { s with responses := s.responses ++ [r] }

/-! The read path -/

/-- RD8.RAM completes with the cell at `addr & 0x07FF` and changes nothing else (R131). -/
def Obligations.Rd8RamReadsTheCell : Prop :=
  ∀ (a : Address) (s : State), s.pwr = true →
    exec (.rd8Ram a) s = .next { s with
      responses := s.responses ++ [⟨.ok, (ramRead s.ram (a.toNat % 2048)).setWidth 16, none⟩] }

/-- RD8.LIO completes with 0, makes no call and consults no answer (R134). -/
def Obligations.Rd8LioReadsZero : Prop :=
  ∀ (a : Address) (s : State), s.pwr = true →
    exec (.rd8Lio a) s = .next { s with responses := s.responses ++ [⟨.ok, 0#16, none⟩] }

/-- The five handler rows of RD8 complete: exactly one call, whose answer, whatever it is, is the data; nothing else changes
(R132, R133, R135 to R137, R196). The field `answers`, from which the answer `nextAnswer` is taken where it is not empty, is the
model's own (log entry 4). -/
def Obligations.Rd8HandlerRowsCallOnce : Prop :=
  ∀ (a : Address) (s : State) (i : Instr) (c : HandlerCall), s.pwr = true →
    (i, c) ∈ [(Instr.rd8Vid a, HandlerCall.vidRd (a.setWidth 3)), (.rd8Inp a, .inpRd a), (.rd8Exr a, .cartRdx a),
      (.rd8Sav a, .cartRds a), (.rd8Prg a, .cartRdp a)] →
    exec i s = .next { s with
      history := s.history ++ [.call c],
      answers := s.answers.tail,
      responses := s.responses ++ [⟨.ok, (nextAnswer s c).setWidth 16, none⟩] }

/-- R130: an RD8 request at any address performs the operation RD8 of its pseudocode: the row its word selects does what
DECODE and the arm of the region give. -/
def Obligations.Rd8PerformsTheSelectedArm : Prop :=
  ∀ (a : Address) (d : Byte) (p : List Byte) (s : State), s.pwr = true →
    ∃ i, decode (reqWord 0#3 a d) p = .ok i ∧
      exec i s = .next { (read8 a s).2 with
        responses := s.responses ++ [⟨.ok, (read8 a s).1.setWidth 16, none⟩] }

/-- R139: an RD8 at any address writes no state of the block in any arm, fires no monitor and makes at most one handler
call: none in the RAM region and at the Low-I/O addresses other than 0x4016 and 0x4017, exactly one elsewhere. -/
def Obligations.Rd8WritesNoBlockState : Prop :=
  ∀ (a : Address) (d : Byte) (p : List Byte) (s : State), s.pwr = true →
    ∃ (i : Instr) (t : State) (cs : List HandlerCall), decode (reqWord 0#3 a d) p = .ok i ∧ exec i s = .next t ∧
      t.ram = s.ram ∧ t.pwr = s.pwr ∧ t.bind = s.bind ∧ t.watchMap = s.watchMap ∧
      t.history = s.history ++ cs.map .call ∧
      cs.length = if a.toNat < 0x2000 ∨
        (0x4000 ≤ a.toNat ∧ a.toNat < 0x4020 ∧ a.toNat ≠ 0x4016 ∧ a.toNat ≠ 0x4017) then 0 else 1

/-- R140: RD16 is the RD8 at `addr` and then the RD8 at `addr +16 1`, with the calls of both in that order, and its data is
the second byte above the first. -/
def Obligations.Rd16IsTwoReads : Prop :=
  ∀ (a : Address) (s : State), s.pwr = true →
    ∃ (i j : Instr) (t u : State) (lo hi : Byte),
      decode (reqWord 0#3 a 0#8) [] = .ok i ∧ decode (reqWord 0#3 (a + 1#16) 0#8) [] = .ok j ∧
      exec i s = .next t ∧ t.responses = s.responses ++ [⟨.ok, lo.setWidth 16, none⟩] ∧
      exec j t = .next u ∧ u.responses = t.responses ++ [⟨.ok, hi.setWidth 16, none⟩] ∧
      exec (.rd16 a) s = .next { u with responses := s.responses ++ [⟨.ok, hi ++ lo, none⟩] }

/-- R141, R57: in the RAM region RD16 reads the two neighbouring addresses, little-endian, with no wrap inside a page. -/
def Obligations.Rd16DoesNotWrapInAPage : Prop :=
  ∀ (a : Address) (s : State), s.pwr = true → a.toNat + 1 < 0x2000 →
    exec (.rd16 a) s = .next { s with responses := s.responses ++
      [⟨.ok, ramRead s.ram ((a.toNat + 1) % 2048) ++ ramRead s.ram (a.toNat % 2048), none⟩] }

/-- R142: RD16 at 0xFFFF reads 0xFFFF from the cartridge and then address 0x0000, which is cell 0. The field `answers` and the
byte `nextAnswer` taken from it are the model's own (log entry 4). -/
def Obligations.Rd16WrapsAtTheTopOfTheSpace : Prop :=
  ∀ s : State, s.pwr = true →
    exec (.rd16 0xFFFF#16) s = .next { s with
      history := s.history ++ [.call (.cartRdp 0xFFFF#16)],
      answers := s.answers.tail,
      responses := s.responses ++ [⟨.ok, ramRead s.ram 0 ++ nextAnswer s (.cartRdp 0xFFFF#16), none⟩] }

/-! The write path -/

/-- WR8.RAM completes: the monitor's trace event if the address is watched, then the one cell at `addr & 0x07FF` holds the
value; every other cell reads as before and nothing else changes (R151). -/
def Obligations.Wr8RamStoresOneCell : Prop :=
  ∀ (a : Address) (v : Byte) (s : State), Memory.wf s.ram = true → s.pwr = true →
    ∃ t : State, exec (.wr8Ram a v) s = .next t ∧
      (∀ j, ramRead t.ram j = if j = a.toNat % 2048 then v else ramRead s.ram j) ∧
      t = { s with ram := t.ram, history := s.history ++ traceEvents s a v,
                   responses := s.responses ++ [⟨.ok, 0#16, none⟩] }

/-- The handler rows of WR8 but the sprite DMA complete: the trace event if the address is watched, then exactly the row's
calls in order; nothing else changes (R152, R154, R155, R157 to R159, R160). -/
def Obligations.Wr8HandlerRowsForward : Prop :=
  ∀ (a : Address) (v : Byte) (s : State) (i : Instr) (cs : List HandlerCall), s.pwr = true →
    (i, cs) ∈ [(Instr.wr8Vid a v, [HandlerCall.vidWr (a.setWidth 3) v]), (.wr8Inp a v, [.inpWr a v, .audWr a v]),
      (.wr8Aud a v, [.audWr a v]), (.wr8Exr a v, [.cartWrx a v]), (.wr8Sav a v, [.cartWrs a v]),
      (.wr8Prg a v, [.cartWrp a v])] →
    exec i s = .next { s with
      history := s.history ++ traceEvents s a v ++ cs.map .call,
      responses := s.responses ++ [⟨.ok, 0#16, none⟩] }

/-- WR8.DMA completes: the trace event if 0x4014 is watched, then `VID.dma(v)`, then the handler calls of the RD8 requests
that the Video Unit issues meanwhile (none under `after`), each answered OK with the byte that RD8 reads in the state the
earlier ones leave, then `AUD.wr(0x4014, v)`; no state of the block changes under either nesting (R153, R200, R201). The
addresses `dmaAddrs` are a free value and their responses stand before the WR8's own (log entry 6), and the field `answers` is
the model's own (log entry 4). -/
def Obligations.Wr8DmaTriggersVideoThenAudio : Prop :=
  ∀ (v : Byte) (s called : State) (addrs : List Address), s.pwr = true →
    called = callHandler (monitor s 0x4014#16 v) (.vidDma v) → addrs = dmaAddrs called v →
    (s.dmaNesting = .after → addrs = []) ∧
    exec (.wr8Dma v) s = .next { s with
      history := s.history ++ traceEvents s 0x4014#16 v ++ [.call (.vidDma v)] ++
        (addrs.flatMap readCalls).map .call ++ [.call (.audWr 0x4014#16 v)],
      answers := s.answers.drop (addrs.flatMap readCalls).length,
      responses := s.responses ++ (readBytes addrs called).map (fun b => ⟨.ok, b.setWidth 16, none⟩) ++
        [⟨.ok, 0#16, none⟩] }

/-- R150: a WR8 request at any address performs the operation WR8 of its pseudocode: the row its word selects does what the
monitor, DECODE and the arm of the region give. -/
def Obligations.Wr8PerformsTheSelectedArm : Prop :=
  ∀ (a : Address) (v : Byte) (p : List Byte) (s : State), s.pwr = true →
    ∃ i, decode (reqWord 1#3 a v) p = .ok i ∧ exec i s = .next { write8 a v s with
      responses := (write8 a v s).responses ++ [⟨.ok, 0#16, none⟩] }

/-- R52: the four mirrors of a cell name the same cell: a byte written through one is read through each, whatever the
cell. -/
def Obligations.RamMirrorsShareACell : Prop :=
  ∀ (k m n : Nat) (v : Byte) (s : State), k < 0x0800 → m < 4 → n < 4 → Memory.wf s.ram = true → s.pwr = true →
    ∃ t u : State, exec (.wr8Ram (BitVec.ofNat 16 (k + 0x0800 * m)) v) s = .next t ∧
      exec (.rd8Ram (BitVec.ofNat 16 (k + 0x0800 * n))) t = .next u ∧
      u.responses = t.responses ++ [⟨.ok, v.setWidth 16, none⟩] ∧
      decodeAddr (BitVec.ofNat 16 (k + 0x0800 * m)) = (.ram, BitVec.ofNat 16 k)

/-- R53: each of the 1024 mirrors of a Video register reaches that register, for reads and for writes. -/
def Obligations.VideoMirrorsShareARegister : Prop :=
  ∀ (m i : Nat) (v : Byte) (s : State), m < 1024 → i < 8 → s.pwr = true →
    decode (reqWord 0#3 (BitVec.ofNat 16 (0x2000 + 8 * m + i)) 0#8) [] =
      .ok (.rd8Vid (BitVec.ofNat 16 (0x2000 + 8 * m + i))) ∧
    decode (reqWord 1#3 (BitVec.ofNat 16 (0x2000 + 8 * m + i)) v) [] =
      .ok (.wr8Vid (BitVec.ofNat 16 (0x2000 + 8 * m + i)) v) ∧
    (∃ t, exec (.rd8Vid (BitVec.ofNat 16 (0x2000 + 8 * m + i))) s = .next t ∧
      newEvents s t = [.call (.vidRd (BitVec.ofNat 3 i))]) ∧
    (∃ t, exec (.wr8Vid (BitVec.ofNat 16 (0x2000 + 8 * m + i)) v) s = .next t ∧
      (newEvents s t).filterMap eventCall = [.vidWr (BitVec.ofNat 3 i) v])

/-- R156: a WR8 to each of the 32 Low-I/O addresses makes exactly one `AUD.wr(addr, v)`, a WR8 to any other address none. -/
def Obligations.AudioHearsEveryLowIoWrite : Prop :=
  ∀ (a : Address) (v : Byte) (p : List Byte) (s : State), s.pwr = true →
    ∃ (i : Instr) (t : State), decode (reqWord 1#3 a v) p = .ok i ∧ exec i s = .next t ∧
      (newEvents s t).filter isAudio =
        if 0x4000 ≤ a.toNat ∧ a.toNat < 0x4020 then [.call (.audWr a v)] else []

/-! The monitor -/

/-- R170, R171: the monitor fires first: the trace event of a WR8, at most one, stands before every other event of it, and
there is no second. -/
def Obligations.MonitorFiresFirst : Prop :=
  ∀ (a : Address) (v : Byte) (p : List Byte) (s : State), s.pwr = true →
    ∃ (i : Instr) (t : State) (es : List Event), decode (reqWord 1#3 a v) p = .ok i ∧ exec i s = .next t ∧
      t.history = s.history ++ traceEvents s a v ++ es ∧ ∀ e ∈ es, isTrace e = false

/-- R176: only WR8 fires the monitor; every other instruction appends no trace event, and of them CAPTURE and WARM_RESET
leave Work RAM as it is. -/
def Obligations.OnlyWritesFireTheMonitor : Prop :=
  (∀ (i : Instr) (s t : State), writeOf i = none → exec i s = .next t → ∀ e ∈ newEvents s t, isTrace e = false) ∧
  (∀ (i : Instr) (s t : State), i = .capture ∨ i = .warmReset → exec i s = .next t → t.ram = s.ram)

/-- R172: another content of WATCHMAP changes only trace events: from one state every instruction leaves the same Work RAM,
PWR, BIND, parameters, requests and answers and the same other events, and gives the same responses, but for the data of a
sprite DMA's reads under `nested`. There a handler's answer may differ, because the oracle of R196 sees the whole history; that
it is one function of that history in both runs is the model's choice (log entry 4). So is it that the Video Unit's reads under
`nested` are one function in both runs, of a history without trace events (log entry 6), on which the other events and the
answers of a sprite DMA rest. -/
def Obligations.MonitorChangesOnlyTraceEvents : Prop :=
  ∀ (i : Instr) (s t u : State) (m : WatchMap),
    exec i s = .next t → exec i { s with watchMap := m } = .next u →
    u.ram = t.ram ∧ u.pwr = t.pwr ∧ u.bind = t.bind ∧ u.watch = t.watch ∧ u.dmaNesting = t.dmaNesting ∧
    u.requests = t.requests ∧ u.answers = t.answers ∧
    untraced (newEvents s u) = untraced (newEvents s t) ∧
    u.responses.map (fun r => (r.status, r.payload)) = t.responses.map (fun r => (r.status, r.payload)) ∧
    (s.dmaNesting = .after ∨ (∀ v, i ≠ .wr8Dma v) → u.responses = t.responses)

/-- R178: the worked example of the monitor, with its text (R174). -/
def Obligations.WorkedTraceExample : Prop :=
  ∀ s : State, Memory.wf s.ram = true → s.pwr = true → s.watchMap = [(0x075E#16, "Coins")] →
    (∃ t, exec (.wr8Ram 0x075E#16 5#8) s = .next t ∧ newEvents s t = [.trace "Coins" 5#8] ∧ ramRead t.ram 0x75E = 5#8) ∧
    (∃ t, exec (.wr8Ram 0x075F#16 5#8) s = .next t ∧ newEvents s t = [] ∧ ramRead t.ram 0x75F = 5#8) ∧
    traceText "Coins" 5#8 = "Coins changed to: 5"

/-! The snapshot engine -/

/-- CAPTURE completes with the 2048 cells in ascending order and changes nothing else (R180, R181). -/
def Obligations.CaptureDeliversTheCells : Prop :=
  ∀ s : State, s.pwr = true →
    ∃ p : List Byte, p.length = 2048 ∧ (∀ j, j < 2048 → p[j]? = some (ramRead s.ram j)) ∧
      exec .capture s = .next { s with responses := s.responses ++ [⟨.ok, 0#16, some p⟩] }

/-- RESTORE of 2048 bytes completes: every cell is overwritten with the byte of its index and nothing else changes (R182). -/
def Obligations.RestoreOverwritesEveryCell : Prop :=
  ∀ (p : List Byte) (s : State), s.pwr = true → p.length = 2048 →
    ∃ t : State, exec (.restore p) s = .next t ∧ (∀ j, j < 2048 → p[j]? = some (ramRead t.ram j)) ∧
      t = { s with ram := t.ram, responses := s.responses ++ [⟨.ok, 0#16, none⟩] }

/-- R184 (a) to (c): a RESTORE, in any later state, of the payload of a CAPTURE leaves Work RAM what it was at the CAPTURE. -/
def Obligations.RestoreOfCaptureGivesBackRam : Prop :=
  ∀ s u : State, Memory.wf s.ram = true → s.pwr = true → u.pwr = true →
    ∃ (p : List Byte) (t w : State), exec .capture s = .next t ∧
      t.responses = s.responses ++ [⟨.ok, 0#16, some p⟩] ∧ exec (.restore p) u = .next w ∧ w.ram = s.ram

/-- R184 (d): a CAPTURE straight after a successful RESTORE returns the payload restored. -/
def Obligations.CaptureOfRestoreGivesBackPayload : Prop :=
  ∀ (p : List Byte) (s : State), s.pwr = true → p.length = 2048 →
    ∃ t u : State, exec (.restore p) s = .next t ∧ exec .capture t = .next u ∧
      u.responses = t.responses ++ [⟨.ok, 0#16, some p⟩]

/-! Rules over the whole machine -/

/-- R29, R197: Work RAM is written by WR8.RAM, RESTORE and COLD_RESET and by nothing else. -/
def Obligations.OnlyThreeInstructionsWriteRam : Prop :=
  ∀ (i : Instr) (s t : State), exec i s = .next t → t.ram ≠ s.ram →
    i = .coldReset ∨ (∃ a v, i = .wr8Ram a v) ∨ ∃ p, i = .restore p

/-- R199: the inventory of handler calls: each instruction makes exactly the calls of the table, in order (a sprite DMA under
`after`; under `nested` the Video Unit's own reads stand between its two). -/
def Obligations.HandlerCallInventory : Prop :=
  ∀ (i : Instr) (s : State), s.pwr = true → (s.dmaNesting = .after ∨ ∀ v, i ≠ .wr8Dma v) →
    ∃ t, exec i s = .next t ∧ (newEvents s t).filterMap eventCall = callsOf i

/-- R200, R201: an RD8 request of the Video Unit from inside a sprite DMA is performed like any other RD8: it leaves what the
instruction leaves that the word of that RD8 decodes to. -/
def Obligations.NestedReadIsAnRd8 : Prop :=
  ∀ (a : Address) (d : Byte) (p : List Byte) (s : State), s.pwr = true →
    ∃ i, decode (reqWord 0#3 a d) p = .ok i ∧ exec i s = .next (nestedRead a s)

/-- R172 for any run: of two states that differ only in WATCH, WATCHMAP, trace events and response data, both steps complete
and leave two states that differ only so. Without the monitor the state and the handler calls of a run are the
same. That the Video Unit's reads under `nested` are one function in both runs is the model's choice (log entry 6). -/
def Obligations.NothingFlowsBackFromTheMonitor : Prop :=
  ∀ s u : State, SameButTraces s u →
    ∃ t w : State, step s = .next t ∧ step u = .next w ∧ SameButTraces t w
end

