-- ==== Sys2Proof/Laws/State.lean ====
section
/-! SUPPORT. What each update of the state leaves in each field: one lemma per field and update. -/

namespace Sys2Proof.Machine

variable (s : State)

@[simp] theorem emit_ram (e : Event) : (emit s e).ram = s.ram := rfl
@[simp] theorem emit_pwr (e : Event) : (emit s e).pwr = s.pwr := rfl
@[simp] theorem emit_bind (e : Event) : (emit s e).bind = s.bind := rfl
@[simp] theorem emit_watchMap (e : Event) : (emit s e).watchMap = s.watchMap := rfl
@[simp] theorem emit_watch (e : Event) : (emit s e).watch = s.watch := rfl
@[simp] theorem emit_dmaNesting (e : Event) : (emit s e).dmaNesting = s.dmaNesting := rfl
@[simp] theorem emit_requests (e : Event) : (emit s e).requests = s.requests := rfl
@[simp] theorem emit_responses (e : Event) : (emit s e).responses = s.responses := rfl
@[simp] theorem emit_history (e : Event) : (emit s e).history = s.history ++ [e] := rfl
@[simp] theorem emit_answers (e : Event) : (emit s e).answers = s.answers := rfl

@[simp] theorem respond_ram (st : Status) (d : Data) (p : Option (List Byte)) : (respond s st d p).ram = s.ram := rfl
@[simp] theorem respond_pwr (st : Status) (d : Data) (p : Option (List Byte)) : (respond s st d p).pwr = s.pwr := rfl
@[simp] theorem respond_bind (st : Status) (d : Data) (p : Option (List Byte)) : (respond s st d p).bind = s.bind := rfl
@[simp] theorem respond_watchMap (st : Status) (d : Data) (p : Option (List Byte)) : (respond s st d p).watchMap = s.watchMap := rfl
@[simp] theorem respond_watch (st : Status) (d : Data) (p : Option (List Byte)) : (respond s st d p).watch = s.watch := rfl
@[simp] theorem respond_dmaNesting (st : Status) (d : Data) (p : Option (List Byte)) : (respond s st d p).dmaNesting = s.dmaNesting := rfl
@[simp] theorem respond_requests (st : Status) (d : Data) (p : Option (List Byte)) : (respond s st d p).requests = s.requests := rfl
@[simp] theorem respond_responses (st : Status) (d : Data) (p : Option (List Byte)) : (respond s st d p).responses = s.responses ++ [⟨st, d, p⟩] := rfl
@[simp] theorem respond_history (st : Status) (d : Data) (p : Option (List Byte)) : (respond s st d p).history = s.history := rfl
@[simp] theorem respond_answers (st : Status) (d : Data) (p : Option (List Byte)) : (respond s st d p).answers = s.answers := rfl

@[simp] theorem writeCell_ram (o : Address) (v : Byte) : (writeCell s o v).ram = ramWrite s.ram o.toNat v := rfl
@[simp] theorem writeCell_pwr (o : Address) (v : Byte) : (writeCell s o v).pwr = s.pwr := rfl
@[simp] theorem writeCell_bind (o : Address) (v : Byte) : (writeCell s o v).bind = s.bind := rfl
@[simp] theorem writeCell_watchMap (o : Address) (v : Byte) : (writeCell s o v).watchMap = s.watchMap := rfl
@[simp] theorem writeCell_watch (o : Address) (v : Byte) : (writeCell s o v).watch = s.watch := rfl
@[simp] theorem writeCell_dmaNesting (o : Address) (v : Byte) : (writeCell s o v).dmaNesting = s.dmaNesting := rfl
@[simp] theorem writeCell_requests (o : Address) (v : Byte) : (writeCell s o v).requests = s.requests := rfl
@[simp] theorem writeCell_responses (o : Address) (v : Byte) : (writeCell s o v).responses = s.responses := rfl
@[simp] theorem writeCell_history (o : Address) (v : Byte) : (writeCell s o v).history = s.history := rfl
@[simp] theorem writeCell_answers (o : Address) (v : Byte) : (writeCell s o v).answers = s.answers := rfl

@[simp] theorem callHandler_ram (c : HandlerCall) : (callHandler s c).ram = s.ram := rfl
@[simp] theorem callHandler_pwr (c : HandlerCall) : (callHandler s c).pwr = s.pwr := rfl
@[simp] theorem callHandler_bind (c : HandlerCall) : (callHandler s c).bind = s.bind := rfl
@[simp] theorem callHandler_watchMap (c : HandlerCall) : (callHandler s c).watchMap = s.watchMap := rfl
@[simp] theorem callHandler_watch (c : HandlerCall) : (callHandler s c).watch = s.watch := rfl
@[simp] theorem callHandler_dmaNesting (c : HandlerCall) : (callHandler s c).dmaNesting = s.dmaNesting := rfl
@[simp] theorem callHandler_requests (c : HandlerCall) : (callHandler s c).requests = s.requests := rfl
@[simp] theorem callHandler_responses (c : HandlerCall) : (callHandler s c).responses = s.responses := rfl
@[simp] theorem callHandler_history (c : HandlerCall) : (callHandler s c).history = s.history ++ [.call c] := rfl
@[simp] theorem callHandler_answers (c : HandlerCall) : (callHandler s c).answers = s.answers := rfl

@[simp] theorem rebind_ram : (rebind s).ram = s.ram := rfl
@[simp] theorem rebind_pwr : (rebind s).pwr = s.pwr := rfl
@[simp] theorem rebind_bind : (rebind s).bind = ⟨.session, .session, .session, .session⟩ := rfl
@[simp] theorem rebind_watchMap : (rebind s).watchMap = s.watchMap := rfl
@[simp] theorem rebind_watch : (rebind s).watch = s.watch := rfl
@[simp] theorem rebind_dmaNesting : (rebind s).dmaNesting = s.dmaNesting := rfl
@[simp] theorem rebind_requests : (rebind s).requests = s.requests := rfl
@[simp] theorem rebind_responses : (rebind s).responses = s.responses := rfl
@[simp] theorem rebind_history : (rebind s).history = s.history ++ [.rebind] := rfl
@[simp] theorem rebind_answers : (rebind s).answers = s.answers := rfl

@[simp] theorem rebuildWatch_ram : (rebuildWatch s).ram = s.ram := rfl
@[simp] theorem rebuildWatch_pwr : (rebuildWatch s).pwr = s.pwr := rfl
@[simp] theorem rebuildWatch_bind : (rebuildWatch s).bind = s.bind := rfl
@[simp] theorem rebuildWatch_watchMap : (rebuildWatch s).watchMap = s.watch := rfl
@[simp] theorem rebuildWatch_watch : (rebuildWatch s).watch = s.watch := rfl
@[simp] theorem rebuildWatch_dmaNesting : (rebuildWatch s).dmaNesting = s.dmaNesting := rfl
@[simp] theorem rebuildWatch_requests : (rebuildWatch s).requests = s.requests := rfl
@[simp] theorem rebuildWatch_responses : (rebuildWatch s).responses = s.responses := rfl
@[simp] theorem rebuildWatch_history : (rebuildWatch s).history = s.history := rfl
@[simp] theorem rebuildWatch_answers : (rebuildWatch s).answers = s.answers := rfl

@[simp] theorem coldFill_ram : (coldFill s).ram = ramCold := rfl
@[simp] theorem coldFill_pwr : (coldFill s).pwr = s.pwr := rfl
@[simp] theorem coldFill_bind : (coldFill s).bind = s.bind := rfl
@[simp] theorem coldFill_watchMap : (coldFill s).watchMap = s.watchMap := rfl
@[simp] theorem coldFill_watch : (coldFill s).watch = s.watch := rfl
@[simp] theorem coldFill_dmaNesting : (coldFill s).dmaNesting = s.dmaNesting := rfl
@[simp] theorem coldFill_requests : (coldFill s).requests = s.requests := rfl
@[simp] theorem coldFill_responses : (coldFill s).responses = s.responses := rfl
@[simp] theorem coldFill_history : (coldFill s).history = s.history := rfl
@[simp] theorem coldFill_answers : (coldFill s).answers = s.answers := rfl

@[simp] theorem powerOn_ram : (powerOn s).ram = s.ram := rfl
@[simp] theorem powerOn_pwr : (powerOn s).pwr = true := rfl
@[simp] theorem powerOn_bind : (powerOn s).bind = s.bind := rfl
@[simp] theorem powerOn_watchMap : (powerOn s).watchMap = s.watchMap := rfl
@[simp] theorem powerOn_watch : (powerOn s).watch = s.watch := rfl
@[simp] theorem powerOn_dmaNesting : (powerOn s).dmaNesting = s.dmaNesting := rfl
@[simp] theorem powerOn_requests : (powerOn s).requests = s.requests := rfl
@[simp] theorem powerOn_responses : (powerOn s).responses = s.responses := rfl
@[simp] theorem powerOn_history : (powerOn s).history = s.history := rfl
@[simp] theorem powerOn_answers : (powerOn s).answers = s.answers := rfl

@[simp] theorem readHandler_snd_ram (c : HandlerCall) : (readHandler s c).2.ram = s.ram := rfl
@[simp] theorem readHandler_snd_pwr (c : HandlerCall) : (readHandler s c).2.pwr = s.pwr := rfl
@[simp] theorem readHandler_snd_bind (c : HandlerCall) : (readHandler s c).2.bind = s.bind := rfl
@[simp] theorem readHandler_snd_watchMap (c : HandlerCall) : (readHandler s c).2.watchMap = s.watchMap := rfl
@[simp] theorem readHandler_snd_watch (c : HandlerCall) : (readHandler s c).2.watch = s.watch := rfl
@[simp] theorem readHandler_snd_dmaNesting (c : HandlerCall) : (readHandler s c).2.dmaNesting = s.dmaNesting := rfl
@[simp] theorem readHandler_snd_requests (c : HandlerCall) : (readHandler s c).2.requests = s.requests := rfl
@[simp] theorem readHandler_snd_responses (c : HandlerCall) : (readHandler s c).2.responses = s.responses := rfl
@[simp] theorem readHandler_snd_history (c : HandlerCall) : (readHandler s c).2.history = s.history ++ [.call c] := rfl
@[simp] theorem readHandler_snd_answers (c : HandlerCall) : (readHandler s c).2.answers = s.answers.tail := rfl
@[simp] theorem readHandler_fst (c : HandlerCall) : (readHandler s c).1 = nextAnswer s c := rfl

end Sys2Proof.Machine
end

