-- ==== Sys2Proof/Laws/Ram.lean ====
section
/-! SUPPORT. Work RAM: a read after a write, after a load and after a dump; every operation keeps the canonical form; two
canonical stores that read alike are equal. -/

namespace Sys2Proof.Machine

@[simp] theorem ramRead_nil (i : Nat) : ramRead [] i = ramUnlisted i := rfl

theorem ramRead_cons (c : Host.Cell) (m : List Host.Cell) (i : Nat) :
    ramRead (c :: m) i = if c.1 = i then c.2 else ramRead m i := rfl

/-- Below the lowest index a canonical store may list, a cell is unlisted. -/
theorem ramRead_of_lt {lo i : Nat} {m : List Host.Cell} (h : ramWfFrom lo m = true) (hi : i < lo) :
    ramRead m i = ramUnlisted i := by
  induction m generalizing lo with
  | nil => rfl
  | cons c m ih =>
    simp only [ramWfFrom, Bool.and_eq_true, decide_eq_true_eq] at h
    rw [ramRead_cons, if_neg (by omega), ih h.2 (by omega)]

/-- A canonical store is canonical from any lower index on. -/
theorem ramWfFrom_mono {lo lo' : Nat} {m : List Host.Cell} (h : ramWfFrom lo m = true) (hl : lo' ≤ lo) :
    ramWfFrom lo' m = true := by
  cases m with
  | nil => rfl
  | cons c m =>
    simp only [ramWfFrom, Bool.and_eq_true, decide_eq_true_eq] at h ⊢
    exact ⟨⟨⟨by omega, h.1.1.2⟩, h.1.2⟩, h.2⟩

/-- A cell put in front of a canonical store that starts above it keeps the form. -/
theorem ramCons_wf {lo i : Nat} {v : Byte} {m : List Host.Cell} (h : ramWfFrom (i + 1) m = true) (hl : lo ≤ i)
    (hi : i < ramSize) : ramWfFrom lo (ramCons i v m) = true := by
  unfold ramCons
  split
  · exact ramWfFrom_mono h (by omega)
  · simp [ramWfFrom, *]

/-- What a store reads after a cell is put in front of it. -/
theorem ramRead_ramCons {i j : Nat} {v : Byte} {m : List Host.Cell} (h : ramWfFrom (i + 1) m = true) :
    ramRead (ramCons i v m) j = if j = i then v else ramRead m j := by
  unfold ramCons
  by_cases hv : v = ramUnlisted i
  · rw [if_pos hv]
    split
    · rename_i hj; subst hj; rw [ramRead_of_lt h (by omega), hv]
    · rfl
  · rw [if_neg hv, ramRead_cons]
    by_cases hj : j = i
    · simp [hj]
    · rw [if_neg (fun h => hj h.symm), if_neg hj]

/-- A write keeps the canonical form. -/
theorem ramWrite_wfFrom {lo i : Nat} {v : Byte} {m : List Host.Cell} (h : ramWfFrom lo m = true) (hl : lo ≤ i)
    (hi : i < ramSize) : ramWfFrom lo (ramWrite m i v) = true := by
  induction m generalizing lo with
  | nil => exact ramCons_wf rfl hl hi
  | cons c m ih =>
    have h' := h
    simp only [ramWfFrom, Bool.and_eq_true, decide_eq_true_eq] at h'
    unfold ramWrite
    split
    · exact ramCons_wf (by simp only [ramWfFrom, Bool.and_eq_true, decide_eq_true_eq]; exact ⟨⟨⟨by omega, h'.1.1.2⟩, h'.1.2⟩, h'.2⟩) hl hi
    · split
      · rename_i he; exact ramCons_wf (he ▸ h'.2) hl hi
      · simp only [ramWfFrom, Bool.and_eq_true, decide_eq_true_eq]
        exact ⟨h'.1, ih h'.2 (by omega)⟩

/-- A write keeps the canonical form of Work RAM. -/
theorem ramWrite_wf {i : Nat} {v : Byte} {m : List Host.Cell} (h : Memory.wf m = true) (hi : i < ramSize) :
    Memory.wf (ramWrite m i v) = true :=
  ramWrite_wfFrom h (by omega) hi

/-- The cell written reads the value written, every other cell reads as before. -/
theorem ramRead_ramWriteFrom {lo i j : Nat} {v : Byte} {m : List Host.Cell} (h : ramWfFrom lo m = true) :
    ramRead (ramWrite m i v) j = if j = i then v else ramRead m j := by
  induction m generalizing lo with
  | nil => exact ramRead_ramCons rfl
  | cons c m ih =>
    have h' := h
    simp only [ramWfFrom, Bool.and_eq_true, decide_eq_true_eq] at h'
    unfold ramWrite
    split
    · exact ramRead_ramCons (by simp only [ramWfFrom, Bool.and_eq_true, decide_eq_true_eq]; exact ⟨⟨⟨by omega, h'.1.1.2⟩, h'.1.2⟩, h'.2⟩)
    · split
      · rename_i he
        rw [ramRead_ramCons (he ▸ h'.2), ramRead_cons]
        by_cases hj : j = i
        · simp [hj]
        · rw [if_neg hj, if_neg hj, if_neg (by omega)]
      · rw [ramRead_cons, ih h'.2, ramRead_cons]
        by_cases hc : c.1 = j
        · rw [if_pos hc, if_pos hc, if_neg (by omega)]
        · rw [if_neg hc, if_neg hc]

/-- The cell written reads the value written, every other cell reads as before. -/
theorem ramRead_ramWrite {i j : Nat} {v : Byte} {m : List Host.Cell} (h : Memory.wf m = true) :
    ramRead (ramWrite m i v) j = if j = i then v else ramRead m j :=
  ramRead_ramWriteFrom h

/-- A load of bytes that fit is canonical. -/
theorem ramLoad_wfFrom {i : Nat} {p : List Byte} (h : i + p.length ≤ ramSize) : ramWfFrom i (ramLoad i p) = true := by
  induction p generalizing i with
  | nil => rfl
  | cons v p ih =>
    simp only [List.length_cons] at h
    exact ramCons_wf (ih (by omega)) (by omega) (by omega)

/-- A load of 2048 bytes is canonical. -/
theorem ramLoad_wf {p : List Byte} (h : p.length = ramSize) : Memory.wf (ramLoad 0 p) = true :=
  ramLoad_wfFrom (by omega)

/-- After a load the cells loaded read the bytes given. -/
theorem ramRead_ramLoad {i j : Nat} {p : List Byte} (h : i + p.length ≤ ramSize) (hj : j < p.length) :
    ramRead (ramLoad i p) (i + j) = p[j] := by
  induction p generalizing i j with
  | nil => simp at hj
  | cons v p ih =>
    simp only [List.length_cons] at h hj
    unfold ramLoad
    rw [ramRead_ramCons (ramLoad_wfFrom (by omega))]
    cases j with
    | zero => simp
    | succ j =>
      rw [if_neg (by omega), show i + (j + 1) = i + 1 + j by omega, ih (by omega) (by omega)]
      rfl

@[simp] theorem ramDump_length (m : List Host.Cell) (i n : Nat) : (ramDump m i n).length = n := by
  induction n generalizing i with
  | zero => rfl
  | succ n ih => simp [ramDump, ih]

/-- A dump gives the contents of the cells in ascending order. -/
theorem ramDump_getElem {m : List Host.Cell} {i n j : Nat} (hj : j < (ramDump m i n).length) :
    (ramDump m i n)[j] = ramRead m (i + j) := by
  induction n generalizing i j with
  | zero => simp at hj
  | succ n ih =>
    cases j with
    | zero => rfl
    | succ j =>
      simp only [ramDump, List.getElem_cons_succ]
      rw [ih, show i + 1 + j = i + (j + 1) by omega]

/-- Two canonical stores that read alike in every cell are equal. -/
theorem ram_ext {lo : Nat} {m m' : List Host.Cell} (h : ramWfFrom lo m = true) (h' : ramWfFrom lo m' = true)
    (he : ∀ i, i < ramSize → ramRead m i = ramRead m' i) : m = m' := by
  induction m generalizing lo m' with
  | nil =>
    cases m' with
    | nil => rfl
    | cons d m' =>
      simp only [ramWfFrom, Bool.and_eq_true, decide_eq_true_eq, bne_iff_ne] at h'
      have hd := he d.1 h'.1.1.2
      rw [ramRead_cons, if_pos rfl] at hd
      exact absurd hd.symm h'.1.2
  | cons c m ih =>
    have hc := h
    simp only [ramWfFrom, Bool.and_eq_true, decide_eq_true_eq, bne_iff_ne] at hc
    have hec := he c.1 hc.1.1.2
    rw [ramRead_cons, if_pos rfl] at hec
    cases m' with
    | nil => exact absurd hec hc.1.2
    | cons d m' =>
      have hd := h'
      simp only [ramWfFrom, Bool.and_eq_true, decide_eq_true_eq, bne_iff_ne] at hd
      have hed := he d.1 hd.1.1.2
      rw [ramRead_cons (c := d), if_pos rfl] at hed
      have h1 : c.1 = d.1 := by
        rcases Nat.lt_trichotomy c.1 d.1 with hlt | heq | hgt
        · rw [ramRead_cons, if_neg (by omega), ramRead_of_lt hd.2 (by omega)] at hec
          exact absurd hec hc.1.2
        · exact heq
        · rw [ramRead_cons, if_neg (by omega), ramRead_of_lt hc.2 (by omega)] at hed
          exact absurd hed.symm hd.1.2
      have h2 : c = d := by
        rw [ramRead_cons, if_pos h1.symm] at hec
        exact Prod.ext h1 hec
      subst h2
      rw [ih hc.2 hd.2]
      intro i hi
      by_cases hci : i < c.1 + 1
      · rw [ramRead_of_lt hc.2 hci, ramRead_of_lt hd.2 hci]
      · have := he i hi
        rwa [ramRead_cons, ramRead_cons, if_neg (by omega), if_neg (by omega)] at this

/-- Two canonical stores that read alike in all 2048 cells are equal. -/
theorem Memory.wf_ext {m m' : List Host.Cell} (h : Memory.wf m = true) (h' : Memory.wf m' = true)
    (he : ∀ i, i < ramSize → ramRead m i = ramRead m' i) : m = m' :=
  ram_ext h h' he

/-- The fill and the four patches leave the reset contents: no cell is listed. -/
theorem ramCold_eq : ramCold = [] := by decide +kernel

@[simp] theorem ramCold_wf : Memory.wf ramCold = true := by rw [ramCold_eq]; rfl

/-- A Work RAM offset is the index of a cell (R85). -/
theorem ramOffset_lt (a : Address) : (ramOffset a).toNat < ramSize := by
  simp only [ramOffset, BitVec.toNat_and, ramSize]
  exact Nat.lt_of_le_of_lt Nat.and_le_right (by decide)

/-- The reset memory is canonical. -/
theorem reset_memory_wf : Memory.wf State.reset.ram = true := rfl

end Sys2Proof.Machine
end

