-- ==== Sys2Proof/Laws/Ops.lean ====
section
/-! SUPPORT. One lemma per shared operation: everything it can do, for the proofs to cite. -/

namespace Sys2Proof.Machine

/-- On an 8-bit value the mask changes nothing (R138, R161). -/
@[simp] theorem mask8_eq (v : Byte) : mask8 v = v := by
  simp only [mask8, show (0xFF#8 : Byte) = BitVec.allOnes 8 from rfl, BitVec.and_allOnes]

/-- The data of an RD16 is the high byte above the low byte (R86). -/
theorem wordData_eq (lo hi : Byte) : wordData lo hi = hi ++ lo := by
  apply BitVec.eq_of_toNat_eq
  have h1 := lo.isLt
  have h2 := hi.isLt
  have h : (hi.toNat <<< 8) ||| lo.toNat = hi.toNat * 2 ^ 8 + lo.toNat := by
    rw [← Nat.shiftLeft_add_eq_or_of_lt (by omega), Nat.shiftLeft_eq]
  simp only [wordData, BitVec.toNat_or, BitVec.toNat_shiftLeft, BitVec.toNat_setWidth, BitVec.toNat_append]
  rw [Nat.mod_eq_of_lt (by omega : hi.toNat < 2 ^ 16), Nat.mod_eq_of_lt (by omega : lo.toNat < 2 ^ 16),
    Nat.mod_eq_of_lt (by rw [Nat.shiftLeft_eq]; omega)]

/-- With PWR = 1 the guard lets the operation pass. -/
theorem powered_on {s : State} (h : s.pwr = true) (r : Result) : powered s r = r := by
  simp only [powered, h, if_true]

/-- With PWR = 0 the guard answers NotPoweredOn (R214). -/
theorem powered_off {s : State} (h : s.pwr = false) (r : Result) : powered s r = raise s .notPoweredOn := by
  simp only [powered, h, Bool.false_eq_true, if_false]

/-- The monitor appends its trace event, if any, and does nothing else (R171, R172). -/
theorem monitor_eq (s : State) (a : Address) (v : Byte) :
    monitor s a v = { s with history := s.history ++ traceEvents s a v } := by
  cases h : watchLabel s.watchMap a <;> simp only [monitor, traceEvents, h, emit, List.append_nil]

/-- Taking an exception appends one response and does nothing else (R218). -/
theorem raise_eq (s : State) (st : Status) :
    raise s st = .next { s with responses := s.responses ++ [⟨st, 0#16, none⟩] } := rfl

/-- A completed operation answers OK with its data (R84). -/
theorem complete_eq (s : State) (d : Data) :
    complete s d = .next { s with responses := s.responses ++ [⟨.ok, d, none⟩] } := rfl

/-- Taking a request off the port: the head is taken, and nothing but the port changes (R33). -/
theorem takeRequest_eq {s t : State} {r : Request} (h : takeRequest s = some (r, t)) :
    ∃ rest, s.requests = r :: rest ∧ t = { s with requests := rest } := by
  unfold takeRequest at h
  split at h
  · cases h
  · rename_i q rest hq
    cases h
    exact ⟨rest, hq, rfl⟩

/-- The handler calls of the arm that RD8 selects at an address (R130). -/
def armCalls (a : Address) : List HandlerCall :=
  match decodeAddr a with
  | (.ram, _) => []
  | (.vid, off) => [.vidRd (vidIndex off)]
  | (.lio, _) => if a = 0x4016#16 ∨ a = 0x4017#16 then [.inpRd a] else []
  | (.exr, _) => [.cartRdx a]
  | (.sav, _) => [.cartRds a]
  | (.prg, _) => [.cartRdp a]

/-- What an RD8 leaves: its calls in the history, their answers taken, nothing else changed (R139). -/
theorem read8_snd (a : Address) (s : State) :
    (read8 a s).2 = { s with
      history := s.history ++ (armCalls a).map .call,
      answers := s.answers.drop (armCalls a).length } := by
  rcases h : decodeAddr a with ⟨r, off⟩
  cases r <;> simp only [read8, armCalls, h] <;> try split
  all_goals simp [readRam, readVid, readInp, readLio, readExr, readSav, readPrg, readHandler, emit, List.drop_one]

/-- Responses given before it take no part in an RD8. -/
theorem read8_responses (a : Address) (s : State) (rs : List Response) :
    read8 a { s with responses := rs } = ((read8 a s).1, { (read8 a s).2 with responses := rs }) := by
  unfold read8
  rcases decodeAddr a with ⟨r, off⟩
  cases r <;> simp only <;> try split
  all_goals rfl

/-- Nor in several. -/
theorem readBytes_responses (as : List Address) (s : State) (rs : List Response) :
    readBytes as { s with responses := rs } = readBytes as s := by
  induction as generalizing s with
  | nil => rfl
  | cons a as ih => simp only [readBytes, read8_responses, ih]

@[simp] theorem readBytes_length (as : List Address) (s : State) : (readBytes as s).length = as.length := by
  induction as generalizing s with
  | nil => rfl
  | cons a as ih => simp [readBytes, ih]

/-- What the RD8 requests of the Video Unit leave, whichever they are: their calls, their answers taken, one OK response to
each with the byte read (R201). -/
theorem nestedReads_eq (as : List Address) (s : State) :
    nestedReads as s = { s with
      history := s.history ++ (as.flatMap armCalls).map .call,
      answers := s.answers.drop (as.flatMap armCalls).length,
      responses := s.responses ++ (readBytes as s).map fun b => ⟨.ok, b.setWidth 16, none⟩ } := by
  induction as generalizing s with
  | nil => simp [nestedReads, readBytes]
  | cons a as ih =>
    have hb : readBytes as (nestedRead a s) = readBytes as (read8 a s).2 := readBytes_responses as (read8 a s).2 _
    rw [nestedReads, ih, hb]
    simp [nestedRead, respond, byteData, readBytes, read8_snd, List.drop_drop]

/-- Under `after` the Video Unit issues no RD8 request from inside `VID.dma` (R200). -/
theorem dmaAddrs_after {s : State} (h : s.dmaNesting = .after) (v : Byte) : dmaAddrs s v = [] := by
  simp only [dmaAddrs, h]

/-- A history without trace events, piece by piece. -/
@[simp] theorem untraced_append (h g : List Event) : untraced (h ++ g) = untraced h ++ untraced g :=
  List.filter_append ..

/-- Handler calls are no trace events. -/
@[simp] theorem untraced_calls (cs : List HandlerCall) : untraced (cs.map .call) = cs.map .call := by
  simp [untraced, isTrace]

/-- The trace event of a write is one. -/
@[simp] theorem untraced_traceEvents (s : State) (a : Address) (v : Byte) : untraced (traceEvents s a v) = [] := by
  unfold traceEvents
  split <;> rfl

/-- The Video Unit's choice of RD8 requests sees no trace event (R35, R172). -/
theorem dmaAddrs_congr {s u : State} (h : SameButTraces s u) (v : Byte) : dmaAddrs u v = dmaAddrs s v := by
  simp only [dmaAddrs, h.dmaNesting, h.bind, h.ram, h.answers, h.history]

/-- A sprite DMA's call of the Video Unit: its event, and what the Video Unit's RD8 requests leave (R200, R201). -/
theorem dmaCall_eq (v : Byte) (s : State) :
    dmaCall v s = { s with
      history := s.history ++ [.call (.vidDma v)] ++
        ((dmaAddrs (callHandler s (.vidDma v)) v).flatMap armCalls).map .call,
      answers := s.answers.drop ((dmaAddrs (callHandler s (.vidDma v)) v).flatMap armCalls).length,
      responses := s.responses ++
        (readBytes (dmaAddrs (callHandler s (.vidDma v)) v) (callHandler s (.vidDma v))).map
          fun b => ⟨.ok, b.setWidth 16, none⟩ } :=
  nestedReads_eq ..

end Sys2Proof.Machine
end

