-- ==== Sys2Proof/Laws/PerInstr.lean ====
section
/-! SUPPORT. The family RowFits: the canonical word of every well-formed instruction fits the row of the opcode table that
carries its number (R90). -/

namespace Sys2Proof

/-- The number of an instruction's row in the opcode table (R90). -/
def Instr.row : Instr → Nat
  | .coldReset => 1
  | .warmReset => 2
  | .rd8Ram _ => 3
  | .rd8Vid _ => 4
  | .rd8Inp _ => 5
  | .rd8Lio _ => 6
  | .rd8Exr _ => 7
  | .rd8Sav _ => 8
  | .rd8Prg _ => 9
  | .wr8Ram _ _ => 10
  | .wr8Vid _ _ => 11
  | .wr8Dma _ => 12
  | .wr8Inp _ _ => 13
  | .wr8Aud _ _ => 14
  | .wr8Exr _ _ => 15
  | .wr8Sav _ _ => 16
  | .wr8Prg _ _ => 17
  | .rd16 _ => 18
  | .capture => 19
  | .restore _ => 20
  | .illegal => 21

/-- The bitwise AND of two request words goes field by field. -/
theorem reqWord_and (o o' : BitVec 3) (a a' : Address) (v v' : Byte) :
    reqWord o a v &&& reqWord o' a' v' = reqWord (o &&& o') (a &&& a') (v &&& v') := by
  apply BitVec.eq_of_getLsbD_eq
  intro i hi
  simp only [reqWord, BitVec.getLsbD_and, BitVec.getLsbD_append]
  split_ifs <;> rfl

/-- A row takes a word when its mask and pattern fit operation code and address (no row looks at WDATA). -/
theorem OpcodeRow.takes_reqWord {r : OpcodeRow} {o mo po : BitVec 3} {a ma pa : Address} {v : Byte}
    (hm : r.mask = reqWord mo ma 0#8) (hp : r.pattern = reqWord po pa 0#8) (ho : o &&& mo = po) (ha : a &&& ma = pa) :
    r.takes (reqWord o a v) = true := by
  simp only [OpcodeRow.takes, hm, hp, reqWord_and, ho, ha, BitVec.and_zero, beq_self_eq_true]

/-- The input addresses fit the mask of their rows. -/
theorem isInputAddr_mask {a : Address} (h : isInputAddr a = true) : a &&& 0xFFFE#16 = 0x4016#16 := by
  simp only [isInputAddr, Bool.or_eq_true, beq_iff_eq] at h
  rcases h with rfl | rfl <;> rfl

/-- The Low-I/O addresses fit the mask of their rows. -/
theorem isLowIoAddr_mask {a : Address} (h : isLowIoAddr a = true) : a &&& 0xFFE0#16 = 0x4000#16 := by
  simp only [isLowIoAddr, Bool.and_eq_true, beq_iff_eq] at h
  rw [show (0xFFE0#16 : Address) = 0xE000#16 ||| 0x1FE0#16 from rfl, BitVec.and_or_distrib_left, h.1, h.2]
  rfl

end Sys2Proof

namespace Sys2Proof.Laws.RowFits

/-- The canonical word of a well-formed instruction fits the row with its number. -/
def Statement (i : Instr) : Prop :=
  i.wf = true → ∃ r, opcodeRows[i.row - 1]? = some r ∧ r.takes (encode i).word = true

theorem coldReset : Statement .coldReset := fun _ =>
  ⟨_, rfl, OpcodeRow.takes_reqWord (mo := 7#3) (po := 7#3) (ma := 0x0000#16) (pa := 0x0000#16) rfl rfl rfl (BitVec.and_zero)⟩

theorem warmReset : Statement .warmReset := fun _ =>
  ⟨_, rfl, OpcodeRow.takes_reqWord (mo := 7#3) (po := 6#3) (ma := 0x0000#16) (pa := 0x0000#16) rfl rfl rfl (BitVec.and_zero)⟩

theorem rd8Ram (a : Address) : Statement (.rd8Ram a) := fun h =>
  ⟨_, rfl, OpcodeRow.takes_reqWord (mo := 7#3) (po := 0#3) (ma := 0xE000#16) (pa := 0x0000#16) rfl rfl rfl (beq_iff_eq.mp h)⟩

theorem rd8Vid (a : Address) : Statement (.rd8Vid a) := fun h =>
  ⟨_, rfl, OpcodeRow.takes_reqWord (mo := 7#3) (po := 0#3) (ma := 0xE000#16) (pa := 0x2000#16) rfl rfl rfl (beq_iff_eq.mp h)⟩

theorem rd8Inp (a : Address) : Statement (.rd8Inp a) := fun h =>
  ⟨_, rfl, OpcodeRow.takes_reqWord (mo := 7#3) (po := 0#3) (ma := 0xFFFE#16) (pa := 0x4016#16) rfl rfl rfl (isInputAddr_mask h)⟩

theorem rd8Lio (a : Address) : Statement (.rd8Lio a) := fun h =>
  ⟨_, rfl, OpcodeRow.takes_reqWord (mo := 7#3) (po := 0#3) (ma := 0xFFE0#16) (pa := 0x4000#16) rfl rfl rfl (isLowIoAddr_mask (Bool.and_eq_true_iff.mp h).1)⟩

theorem rd8Exr (a : Address) : Statement (.rd8Exr a) := fun h =>
  ⟨_, rfl, OpcodeRow.takes_reqWord (mo := 7#3) (po := 0#3) (ma := 0xE000#16) (pa := 0x4000#16) rfl rfl rfl (beq_iff_eq.mp (Bool.and_eq_true_iff.mp h).1)⟩

theorem rd8Sav (a : Address) : Statement (.rd8Sav a) := fun h =>
  ⟨_, rfl, OpcodeRow.takes_reqWord (mo := 7#3) (po := 0#3) (ma := 0xE000#16) (pa := 0x6000#16) rfl rfl rfl (beq_iff_eq.mp h)⟩

theorem rd8Prg (a : Address) : Statement (.rd8Prg a) := fun h =>
  ⟨_, rfl, OpcodeRow.takes_reqWord (mo := 7#3) (po := 0#3) (ma := 0x8000#16) (pa := 0x8000#16) rfl rfl rfl (beq_iff_eq.mp h)⟩

theorem wr8Ram (a : Address) (v : Byte) : Statement (.wr8Ram a v) := fun h =>
  ⟨_, rfl, OpcodeRow.takes_reqWord (mo := 7#3) (po := 1#3) (ma := 0xE000#16) (pa := 0x0000#16) rfl rfl rfl (beq_iff_eq.mp h)⟩

theorem wr8Vid (a : Address) (v : Byte) : Statement (.wr8Vid a v) := fun h =>
  ⟨_, rfl, OpcodeRow.takes_reqWord (mo := 7#3) (po := 1#3) (ma := 0xE000#16) (pa := 0x2000#16) rfl rfl rfl (beq_iff_eq.mp h)⟩

theorem wr8Dma (v : Byte) : Statement (.wr8Dma v) := fun _ =>
  ⟨_, rfl, OpcodeRow.takes_reqWord (mo := 7#3) (po := 1#3) (ma := 0xFFFF#16) (pa := 0x4014#16) rfl rfl rfl (rfl)⟩

theorem wr8Inp (a : Address) (v : Byte) : Statement (.wr8Inp a v) := fun h =>
  ⟨_, rfl, OpcodeRow.takes_reqWord (mo := 7#3) (po := 1#3) (ma := 0xFFFE#16) (pa := 0x4016#16) rfl rfl rfl (isInputAddr_mask h)⟩

theorem wr8Aud (a : Address) (v : Byte) : Statement (.wr8Aud a v) := fun h =>
  ⟨_, rfl, OpcodeRow.takes_reqWord (mo := 7#3) (po := 1#3) (ma := 0xFFE0#16) (pa := 0x4000#16) rfl rfl rfl (isLowIoAddr_mask (Bool.and_eq_true_iff.mp (Bool.and_eq_true_iff.mp h).1).1)⟩

theorem wr8Exr (a : Address) (v : Byte) : Statement (.wr8Exr a v) := fun h =>
  ⟨_, rfl, OpcodeRow.takes_reqWord (mo := 7#3) (po := 1#3) (ma := 0xE000#16) (pa := 0x4000#16) rfl rfl rfl (beq_iff_eq.mp (Bool.and_eq_true_iff.mp h).1)⟩

theorem wr8Sav (a : Address) (v : Byte) : Statement (.wr8Sav a v) := fun h =>
  ⟨_, rfl, OpcodeRow.takes_reqWord (mo := 7#3) (po := 1#3) (ma := 0xE000#16) (pa := 0x6000#16) rfl rfl rfl (beq_iff_eq.mp h)⟩

theorem wr8Prg (a : Address) (v : Byte) : Statement (.wr8Prg a v) := fun h =>
  ⟨_, rfl, OpcodeRow.takes_reqWord (mo := 7#3) (po := 1#3) (ma := 0x8000#16) (pa := 0x8000#16) rfl rfl rfl (beq_iff_eq.mp h)⟩

theorem rd16 (a : Address) : Statement (.rd16 a) := fun _ =>
  ⟨_, rfl, OpcodeRow.takes_reqWord (mo := 7#3) (po := 2#3) (ma := 0x0000#16) (pa := 0x0000#16) rfl rfl rfl (BitVec.and_zero)⟩

theorem capture : Statement .capture := fun _ =>
  ⟨_, rfl, OpcodeRow.takes_reqWord (mo := 7#3) (po := 3#3) (ma := 0x0000#16) (pa := 0x0000#16) rfl rfl rfl (BitVec.and_zero)⟩

theorem restore (p : List Byte) : Statement (.restore p) := fun _ =>
  ⟨_, rfl, OpcodeRow.takes_reqWord (mo := 7#3) (po := 4#3) (ma := 0x0000#16) (pa := 0x0000#16) rfl rfl rfl (BitVec.and_zero)⟩

theorem illegal : Statement .illegal := fun _ =>
  ⟨_, rfl, OpcodeRow.takes_reqWord (mo := 7#3) (po := 5#3) (ma := 0x0000#16) (pa := 0x0000#16) rfl rfl rfl (BitVec.and_zero)⟩

end Sys2Proof.Laws.RowFits
end

