-- ==== Sys2Proof/Tests/Slice0.lean ====
section
/-! SUPPORT. Tests: ill-formed terms, decoding of written-out words (table V-ENC of 95_test_vectors.md), single steps (tables
V-DEC to V-EXC of the same file), and one witness for each statement that has hypotheses. -/

namespace Sys2Proof.Machine

/-- The fresh state of 95_test_vectors.md with WATCH empty, nothing on the ports and no opaque constant in it. -/
def fresh : State := ⟨[], true, bindSession, [], [], .after, [], [], [], []⟩

/-- The fresh state with the environment's answers chosen. -/
def answering (l : List Byte) : State := { fresh with answers := l }

/-- The fresh state with cells chosen. -/
def holding (l : List Host.Cell) : State := { fresh with ram := l }

/-- The fresh state with the watch entries of the table V-MON. -/
def watching : State :=
  { fresh with watchMap := [(0x075E#16, "Coins"), (0x2001#16, "Mask"), (0x8000#16, "Bank")] }

/-- The state before the first cold reset, nothing on the ports. -/
def unpowered : State := { fresh with pwr := false, bind := bindNone }

/-- The fresh state with DMA_READ_NESTING = `nested`. -/
def nesting : State := { fresh with dmaNesting := .nested }

/-- The fresh state with one request presented. -/
def presenting (w : ReqWord) (p : List Byte) : State := { fresh with requests := [⟨w, p⟩] }

/-- What an answer of `exec` from a state with nothing on its ports shows outside: events and response words. -/
def shown : Result → Option (List Event × List RspWord)
  | .next t => some (t.history, t.responses.map Response.word)
  | .fault _ => none
  | .refused _ => none

/-- The cells of Work RAM that an answer of `exec` leaves. -/
def cells : Result → Option (List Host.Cell)
  | .next t => some t.ram
  | .fault _ => none
  | .refused _ => none

/-- The handler call words of an answer of `exec`. -/
def hcalls : Result → Option (List HCallWord)
  | .next t => some ((t.history.filterMap eventCall).map HandlerCall.word)
  | .fault _ => none
  | .refused _ => none

/-! Ill-formed terms, one for each check of `Instr.wf`. -/

theorem test_wf_rd8Ram : (Instr.rd8Ram 0x2000#16).wf = false := by decide
theorem test_wf_rd8Vid : (Instr.rd8Vid 0x4000#16).wf = false := by decide
theorem test_wf_rd8Inp : (Instr.rd8Inp 0x4015#16).wf = false := by decide
theorem test_wf_rd8Lio_input : (Instr.rd8Lio 0x4016#16).wf = false := by decide
theorem test_wf_rd8Lio_range : (Instr.rd8Lio 0x4020#16).wf = false := by decide
theorem test_wf_rd8Exr_low : (Instr.rd8Exr 0x401F#16).wf = false := by decide
theorem test_wf_rd8Exr_range : (Instr.rd8Exr 0x6000#16).wf = false := by decide
theorem test_wf_rd8Sav : (Instr.rd8Sav 0x8000#16).wf = false := by decide
theorem test_wf_rd8Prg : (Instr.rd8Prg 0x7FFF#16).wf = false := by decide
theorem test_wf_wr8Ram : (Instr.wr8Ram 0x2000#16 0#8).wf = false := by decide
theorem test_wf_wr8Vid : (Instr.wr8Vid 0x1FFF#16 0#8).wf = false := by decide
theorem test_wf_wr8Inp : (Instr.wr8Inp 0x4018#16 0#8).wf = false := by decide
theorem test_wf_wr8Aud_dma : (Instr.wr8Aud 0x4014#16 0#8).wf = false := by decide
theorem test_wf_wr8Aud_input : (Instr.wr8Aud 0x4017#16 0#8).wf = false := by decide
theorem test_wf_wr8Aud_range : (Instr.wr8Aud 0x4020#16 0#8).wf = false := by decide
theorem test_wf_wr8Exr_low : (Instr.wr8Exr 0x401F#16 0#8).wf = false := by decide
theorem test_wf_wr8Exr_range : (Instr.wr8Exr 0x3FFF#16 0#8).wf = false := by decide
theorem test_wf_wr8Sav : (Instr.wr8Sav 0x5FFF#16 0#8).wf = false := by decide
theorem test_wf_wr8Prg : (Instr.wr8Prg 0x7FFF#16 0#8).wf = false := by decide

/-! Decoding: words written out bit by bit from R80, R81 and R90 (OP, ADDR, WDATA). -/

theorem test_decode_coldReset : decode 0b111_0000000000000000_00000000#27 [] = .ok .coldReset := by rfl
theorem test_decode_warmReset : decode 0b110_1010101111001101_11101111#27 [] = .ok .warmReset := by rfl
theorem test_decode_rd8Ram : decode 0b000_0001111111111111_11111111#27 [] = .ok (.rd8Ram 0x1FFF#16) := by rfl
theorem test_decode_rd8Vid : decode 0b000_0011111111111111_00000000#27 [] = .ok (.rd8Vid 0x3FFF#16) := by rfl
theorem test_decode_rd8Inp : decode 0b000_0100000000010110_00000000#27 [] = .ok (.rd8Inp 0x4016#16) := by rfl
theorem test_decode_rd8Lio : decode 0b000_0100000000011111_00000000#27 [] = .ok (.rd8Lio 0x401F#16) := by rfl
theorem test_decode_rd8Exr : decode 0b000_0101000000000000_00000000#27 [] = .ok (.rd8Exr 0x5000#16) := by rfl
theorem test_decode_rd8Sav : decode 0b000_0111111111111111_00000000#27 [] = .ok (.rd8Sav 0x7FFF#16) := by rfl
theorem test_decode_rd8Prg : decode 0b000_1111111111111111_00000000#27 [] = .ok (.rd8Prg 0xFFFF#16) := by rfl
theorem test_decode_wr8Ram : decode 0b001_0000000000000000_01000010#27 [] = .ok (.wr8Ram 0#16 0x42#8) := by rfl
theorem test_decode_wr8Vid : decode 0b001_0010000000000110_00010000#27 [] = .ok (.wr8Vid 0x2006#16 0x10#8) := by rfl
theorem test_decode_wr8Dma : decode 0b001_0100000000010100_00000010#27 [] = .ok (.wr8Dma 2#8) := by rfl
theorem test_decode_wr8Inp : decode 0b001_0100000000010111_11000000#27 [] = .ok (.wr8Inp 0x4017#16 0xC0#8) := by rfl
theorem test_decode_wr8Aud : decode 0b001_0100000000010101_00000010#27 [] = .ok (.wr8Aud 0x4015#16 2#8) := by rfl
theorem test_decode_wr8Exr : decode 0b001_0100000000100000_01010101#27 [] = .ok (.wr8Exr 0x4020#16 0x55#8) := by rfl
theorem test_decode_wr8Sav : decode 0b001_0110000000000000_10101010#27 [] = .ok (.wr8Sav 0x6000#16 0xAA#8) := by rfl
theorem test_decode_wr8Prg : decode 0b001_1000000000000000_00000001#27 [] = .ok (.wr8Prg 0x8000#16 1#8) := by rfl
theorem test_decode_rd16 : decode 0b010_1111111111111111_11111111#27 [] = .ok (.rd16 0xFFFF#16) := by rfl
theorem test_decode_capture : decode 0b011_0001001000110100_01010110#27 [] = .ok .capture := by rfl
theorem test_decode_restore : decode 0b100_0000000000000000_00000000#27 [7#8] = .ok (.restore [7#8]) := by rfl
theorem test_decode_illegal : decode 0b101_1111111111111111_11111111#27 [] = .ok .illegal := by rfl
theorem test_decode_too_wide : decodeNat 0x8000000 [] = .error .wordTooWide := by rfl
/-- Bits above `nbits` are 0: without OP the word of WR8.DMA is that of RD8 at 0x4014. -/
theorem test_decode_table_bits : decodeTableWord 24 0x1401402 = some (.rd8Lio 0x4014#16) := by rfl

/-- "rows matched" of the table V-ENC. -/
theorem test_decode_rows_matched :
    (opcodeRows.map (·.takes 0x0401600#27)).findIdxs id = [4, 5, 6] ∧
    (opcodeRows.map (·.takes 0x1401402#27)).findIdxs id = [11, 13, 14] ∧
    (opcodeRows.map (·.takes 0x1401601#27)).findIdxs id = [12, 13, 14] := by decide

/-- DECODE on boundary addresses (R117). -/
theorem test_decodeAddr_boundaries :
    decodeAddr 0x1FFF#16 = (.ram, 0x07FF#16) ∧ decodeAddr 0x2008#16 = (.vid, 0#16) ∧
    decodeAddr 0x3FFF#16 = (.vid, 7#16) ∧ decodeAddr 0x401F#16 = (.lio, 0x401F#16) ∧
    decodeAddr 0x4100#16 = (.exr, 0x4100#16) ∧ decodeAddr 0x5000#16 = (.exr, 0x5000#16) ∧
    decodeAddr 0x7FFF#16 = (.sav, 0x7FFF#16) ∧ decodeAddr 0xA000#16 = (.prg, 0xA000#16) := by decide

/-! Steps. -/

/-- V-RST: the cold reset loses the previous contents. -/
theorem test_coldReset : (cells (exec .coldReset (holding [(8, 0#8)]))).map (fun m => [ramRead m 7, ramRead m 8, ramRead m 9,
    ramRead m 0xA, ramRead m 0xE, ramRead m 0xF]) = some [0xFF#8, 0xF7#8, 0xEF#8, 0xDF#8, 0xFF#8, 0xBF#8] := by
  rw [exec, execColdReset, coldFill, ramCold_eq]; rfl
theorem test_coldReset_shown : shown (exec .coldReset unpowered) = some ([.rebind], [0x00000#20]) := by rfl
/-- V-RST: a warm reset does not patch again. -/
theorem test_warmReset : cells (exec .warmReset (holding [(8, 0#8)])) = some [(8, 0#8)] := by rfl
theorem test_warmReset_unpowered : shown (exec .warmReset unpowered) = some ([], [0x30000#20]) := by rfl
/-- V-RD8. -/
theorem test_rd8Ram : shown (exec (.rd8Ram 0x1808#16) fresh) = some ([], [0x000F7#20]) := by rfl
theorem test_rd8Ram_top : shown (exec (.rd8Ram 0x1FFF#16) (holding [(0x7FF, 3#8)])) = some ([], [0x00003#20]) := by rfl
theorem test_rd8Vid : shown (exec (.rd8Vid 0x3FFA#16) (answering [0x82#8])) = some ([.call (.vidRd 2#3)], [0x00082#20]) := by rfl
theorem test_rd8Vid_word : hcalls (exec (.rd8Vid 0x3FFF#16) (answering [0x87#8])) = some [0x0000700#28] := by rfl
theorem test_rd8Inp : shown (exec (.rd8Inp 0x4017#16) (answering [0x41#8])) = some ([.call (.inpRd 0x4017#16)], [0x00041#20]) := by
  rfl
theorem test_rd8Inp_word : hcalls (exec (.rd8Inp 0x4016#16) (answering [0x40#8])) = some [0x3401600#28] := by rfl
theorem test_rd8Lio : shown (exec (.rd8Lio 0x4014#16) (answering [9#8])) = some ([], [0x00000#20]) := by rfl
theorem test_rd8Exr : hcalls (exec (.rd8Exr 0x4020#16) (answering [0xE1#8])) = some [0x6402000#28] := by rfl
theorem test_rd8Exr_shown : shown (exec (.rd8Exr 0x5FFF#16) (answering [0xE1#8])) =
    some ([.call (.cartRdx 0x5FFF#16)], [0x000E1#20]) := by rfl
theorem test_rd8Sav : hcalls (exec (.rd8Sav 0x6000#16) (answering [0x5A#8])) = some [0x8600000#28] := by rfl
theorem test_rd8Sav_shown : shown (exec (.rd8Sav 0x7FFF#16) (answering [0x5A#8])) =
    some ([.call (.cartRds 0x7FFF#16)], [0x0005A#20]) := by rfl
theorem test_rd8Prg : hcalls (exec (.rd8Prg 0xFFFF#16) (answering [0x4C#8])) = some [0xAFFFF00#28] := by rfl
theorem test_rd8Prg_unpowered : shown (exec (.rd8Prg 0xFFFC#16) unpowered) = some ([], [0x30000#20]) := by rfl
/-- V-RD16. -/
theorem test_rd16 : shown (exec (.rd16 0x1FFF#16) { holding [(0, 0x11#8), (0x7FF, 0x22#8)] with answers := [0x80#8] }) =
    some ([.call (.vidRd 0#3)], [0x08022#20]) := by rfl
theorem test_rd16_wrap : shown (exec (.rd16 0xFFFF#16) { holding [(0, 0x11#8)] with answers := [0xCF#8] }) =
    some ([.call (.cartRdp 0xFFFF#16)], [0x011CF#20]) := by rfl
/-- V-WR8. -/
theorem test_wr8Ram : cells (exec (.wr8Ram 0x1FFF#16 3#8) fresh) = some [(0x7FF, 3#8)] := by rfl
/-- V-MON: a mirror of a watched address is not traced. -/
theorem test_wr8Ram_mirror : shown (exec (.wr8Ram 0x0F5E#16 6#8) watching) = some ([], [0x00000#20]) := by rfl
theorem test_wr8Vid : hcalls (exec (.wr8Vid 0x3FFF#16 0xFF#8) fresh) = some [0x10007FF#28] := by rfl
theorem test_wr8Vid_traced : shown (exec (.wr8Vid 0x2001#16 0x1E#8) watching) =
    some ([.trace "Mask" 0x1E#8, .call (.vidWr 1#3 0x1E#8)], [0x00000#20]) := by rfl
theorem test_wr8Dma : hcalls (exec (.wr8Dma 2#8) fresh) = some [0x2000002#28, 0x5401402#28] := by rfl
theorem test_wr8Dma_unpowered : shown (exec (.wr8Dma 2#8) unpowered) = some ([], [0x30000#20]) := by rfl
theorem test_wr8Inp : hcalls (exec (.wr8Inp 0x4017#16 0xC0#8) fresh) = some [0x44017C0#28, 0x54017C0#28] := by rfl
theorem test_wr8Aud : hcalls (exec (.wr8Aud 0x401F#16 0xEE#8) fresh) = some [0x5401FEE#28] := by rfl
theorem test_wr8Exr : hcalls (exec (.wr8Exr 0x4020#16 0x55#8) fresh) = some [0x7402055#28] := by rfl
theorem test_wr8Sav : hcalls (exec (.wr8Sav 0x7FFF#16 0xAB#8) fresh) = some [0x97FFFAB#28] := by rfl
theorem test_wr8Prg : hcalls (exec (.wr8Prg 0xFFFF#16 0x80#8) fresh) = some [0xBFFFF80#28] := by rfl
theorem test_wr8Prg_traced : shown (exec (.wr8Prg 0x8000#16 3#8) watching) =
    some ([.trace "Bank" 3#8, .call (.cartWrp 0x8000#16 3#8)], [0x00000#20]) := by rfl
/-- V-SNAP: the length of a payload is checked before a cell is written. -/
theorem test_restore_empty : shown (exec (.restore []) fresh) = some ([], [0x10000#20]) := by rfl
theorem test_restore_unpowered : shown (exec (.restore [1#8]) unpowered) = some ([], [0x30000#20]) := by rfl
/-- V-EXC. -/
theorem test_illegal : shown (exec .illegal fresh) = some ([], [0x20000#20]) := by rfl
theorem test_illegal_unpowered : shown (exec .illegal unpowered) = some ([], [0x30000#20]) := by rfl
theorem test_capture_unpowered : shown (exec .capture unpowered) = some ([], [0x30000#20]) := by rfl
/-- R174, the third line of V-MON. -/
theorem test_traceText : traceText "Coins" 255#8 = "Coins changed to: 255" := by decide
/-- A word placed by `withFetchWord` is what the next step runs. -/
theorem test_withFetchWord : shown (step (State.withFetchWord fresh 32 0x0000800)) = some ([], [0x000F7#20]) := by rfl

/-! Witnesses: for each statement with hypotheses a state and operands that meet all of them. -/

theorem test_witness_DecodeOfEncodeIsInstruction :
    [Instr.rd8Ram 0x1FFF#16, .rd8Vid 0x3FFF#16, .rd8Inp 0x4017#16, .rd8Lio 0x401F#16, .rd8Exr 0x5FFF#16, .rd8Sav 0x7FFF#16,
      .rd8Prg 0xFFFF#16, .wr8Ram 0#16 255#8, .wr8Vid 0x2000#16 255#8, .wr8Dma 255#8, .wr8Inp 0x4016#16 255#8,
      .wr8Aud 0x4000#16 255#8, .wr8Exr 0x4020#16 255#8, .wr8Sav 0x6000#16 255#8, .wr8Prg 0x8000#16 255#8, .rd16 0xFFFF#16,
      .restore [1#8], .coldReset, .warmReset, .capture, .illegal].all Instr.wf = true := by decide
theorem test_witness_EncodeOfDecodeIsCanonicalWord :
    decode 0x1FFFFFF#27 [1#8] = .ok (.wr8Prg 0xFFFF#16 0xFF#8) ∧ decode 0x4FFFFFF#27 [1#8] = .ok (.restore [1#8]) := ⟨rfl, rfl⟩
theorem test_witness_RowsOverlapOnlyInThreePlaces :
    ∃ r q, opcodeRows[11]? = some r ∧ opcodeRows[13]? = some q ∧ r.takes 0x1401402#27 = true ∧ q.takes 0x1401402#27 = true :=
  ⟨_, _, rfl, rfl, rfl, rfl⟩
theorem test_witness_UnusedFieldsAreIgnored :
    ∀ op ∈ [0#3, 2#3, 3#3, 4#3, 6#3, 7#3], (op = 0#3 ∨ op = 2#3) ∨ (op = 3#3 ∨ op = 4#3 ∨ op = 6#3 ∨ op = 7#3) := by decide
theorem test_witness_StepRunsDecodedInstruction :
    (presenting 0x0000800#27 []).requests = [⟨0x0000800#27, []⟩] ∧ decode 0x0000800#27 [] = .ok (.rd8Ram 8#16) := ⟨rfl, rfl⟩
theorem test_witness_IdleStepChangesNothing : State.reset.requests = [] := rfl
theorem test_witness_EveryRequestIsAnsweredOnce : (presenting 0x1401402#27 []).requests = [⟨0x1401402#27, []⟩] := rfl

/-- The fresh state meets the invariant of the block. -/
theorem fresh_inv : Inv fresh := ⟨rfl, List.nodup_nil, fun _ => ⟨rfl, rfl⟩, fun h => absurd h (by decide)⟩
/-- So does the state with a request presented, and a step answers a next state from it. -/
theorem test_witness_EveryStepKeepsBlockInvariant :
    Inv (presenting 0x1000042#27 []) ∧ ∃ t, step (presenting 0x1000042#27 []) = .next t :=
  ⟨⟨rfl, List.nodup_nil, fun _ => ⟨rfl, rfl⟩, fun h => absurd h (by decide)⟩, _, rfl⟩
theorem test_witness_EveryStepKeepsResponsesLegal :
    (∀ r ∈ (presenting 0x4000000#27 []).responses, ResponseLegal r) ∧ ∃ t, step (presenting 0x4000000#27 []) = .next t :=
  ⟨fun _ h => absurd h List.not_mem_nil, _, rfl⟩
theorem test_witness_EveryStepKeepsCallsLegal :
    CallsLegal (presenting 0x1401402#27 []).history ∧ ∃ t, step (presenting 0x1401402#27 []) = .next t :=
  ⟨fun _ h => absurd h List.not_mem_nil, _, rfl⟩
/-- For the statements whose hypothesis is that `exec` answers a next state. -/
theorem test_witness_ParametersAndRequestsAreKept : ∃ t, exec (.wr8Ram 0x1FFF#16 3#8) fresh = .next t := ⟨_, rfl⟩
theorem test_witness_HistoryAndResponsesOnlyGrow : ∃ t, exec (.wr8Dma 2#8) fresh = .next t := ⟨_, rfl⟩
theorem test_witness_WarmResetKeepsRam : (holding [(0x7FF, 3#8)]).pwr = true := rfl
theorem test_witness_OnlyColdResetWritesPwr : Instr.warmReset ≠ .coldReset ∧ ∃ t, exec .warmReset fresh = .next t :=
  ⟨by decide, _, rfl⟩
theorem test_witness_WatchMapAndBindChangeOnlyAtResets :
    fresh.pwr = true ∧ Instr.capture ≠ .coldReset ∧ Instr.capture ≠ .warmReset ∧ ∃ t, exec .capture fresh = .next t :=
  ⟨rfl, by decide, by decide, _, rfl⟩
theorem test_witness_NotPoweredOnRefusesAllButColdReset :
    (unpowered.pwr = false ∧ Instr.restore [1#8] ≠ .coldReset) ∧ (fresh.pwr = true ∧ ∃ t, exec .illegal fresh = .next t) :=
  ⟨⟨rfl, by decide⟩, rfl, _, rfl⟩
theorem test_witness_ReservedCodeAnswersIllegalOp :
    opField 0x5000000#27 = 5#3 ∧ opField 0x5FFFFFF#27 = 5#3 ∧ fresh.pwr = true ∧
      (presenting 0x5FFFFFF#27 []).requests = [⟨0x5FFFFFF#27, []⟩] ∧ (presenting 0x5FFFFFF#27 []).pwr = true :=
  ⟨rfl, rfl, rfl, rfl, rfl⟩
theorem test_witness_ExceptionPriority :
    (∃ t, exec .coldReset unpowered = .next t) ∧ (∃ t, exec .illegal unpowered = .next t) ∧ (∃ t, exec .illegal fresh = .next t) ∧
      (∃ t, exec (.restore []) fresh = .next t) ∧ (∃ t, exec .capture fresh = .next t) :=
  ⟨⟨_, rfl⟩, ⟨_, rfl⟩, ⟨_, rfl⟩, ⟨_, rfl⟩, ⟨_, rfl⟩⟩
theorem test_witness_RestoreOfWrongLengthWritesNothing :
    fresh.pwr = true ∧ ([] : List Byte).length ≠ 2048 ∧ (List.replicate 2047 0#8).length ≠ 2048 ∧
      (List.replicate 2049 0#8).length ≠ 2048 := by
  simp only [List.length_replicate]; decide
theorem test_witness_SnapshotLengthErrorOnlyFromRestore : ∃ t, exec (.restore []) fresh = .next t := ⟨_, rfl⟩
theorem test_witness_ExceptionsArePrecise :
    ∃ t r, exec .illegal fresh = .next t ∧ r ∈ newResponses fresh t ∧ r.status ≠ .ok :=
  ⟨_, ⟨.illegalOp, 0#16, none⟩, rfl, by decide, by decide⟩
theorem test_witness_Rd8RamReadsTheCell : (holding [(0x7FF, 3#8)]).pwr = true := rfl
theorem test_witness_Rd8LioReadsZero : (answering [9#8]).pwr = true := rfl
/-- Each of the five pairs, at the ends of its range. -/
theorem test_witness_Rd8HandlerRowsCallOnce : (answering [9#8]).pwr = true ∧
    ∀ a ∈ [0x2000#16, 0x3FFF#16, 0x4016#16, 0x4017#16, 0x4020#16, 0x5FFF#16, 0x6000#16, 0x7FFF#16, 0x8000#16, 0xFFFF#16],
      ∀ q ∈ [(Instr.rd8Vid a, HandlerCall.vidRd (a.setWidth 3)), (.rd8Inp a, .inpRd a), (.rd8Exr a, .cartRdx a),
        (.rd8Sav a, .cartRds a), (.rd8Prg a, .cartRdp a)],
        (q.1, q.2) ∈ [(Instr.rd8Vid a, HandlerCall.vidRd (a.setWidth 3)), (.rd8Inp a, .inpRd a), (.rd8Exr a, .cartRdx a),
          (.rd8Sav a, .cartRds a), (.rd8Prg a, .cartRdp a)] :=
  ⟨rfl, fun _ _ _ h => h⟩
/-- The statements about RD8 and WR8 at every address ask only for PWR = 1. -/
theorem test_witness_Rd8PerformsTheSelectedArm : (answering []).pwr = true := rfl
theorem test_witness_Rd8WritesNoBlockState : (answering [1#8]).pwr = true := rfl
theorem test_witness_Rd16IsTwoReads : (answering [1#8, 2#8]).pwr = true := rfl
theorem test_witness_Rd16DoesNotWrapInAPage : fresh.pwr = true ∧ (0x00FF#16 : Address).toNat + 1 < 0x2000 ∧
    (0x1FFE#16 : Address).toNat + 1 < 0x2000 := by decide
theorem test_witness_Rd16WrapsAtTheTopOfTheSpace : (answering [0xCF#8]).pwr = true := rfl
theorem test_witness_Wr8RamStoresOneCell :
    Memory.wf (holding [(0, 1#8), (0x7FF, 3#8)]).ram = true ∧ (holding [(0, 1#8), (0x7FF, 3#8)]).pwr = true := by decide
/-- Each of the six pairs, at the ends of its range. -/
theorem test_witness_Wr8HandlerRowsForward : watching.pwr = true ∧
    ∀ a ∈ [0x2000#16, 0x3FFF#16, 0x4000#16, 0x4016#16, 0x4017#16, 0x401F#16, 0x4020#16, 0x7FFF#16, 0x8000#16, 0xFFFF#16],
      ∀ q ∈ [(Instr.wr8Vid a 1#8, [HandlerCall.vidWr (a.setWidth 3) 1#8]), (.wr8Inp a 1#8, [.inpWr a 1#8, .audWr a 1#8]),
        (.wr8Aud a 1#8, [.audWr a 1#8]), (.wr8Exr a 1#8, [.cartWrx a 1#8]), (.wr8Sav a 1#8, [.cartWrs a 1#8]),
        (.wr8Prg a 1#8, [.cartWrp a 1#8])],
        (q.1, q.2) ∈ [(Instr.wr8Vid a 1#8, [HandlerCall.vidWr (a.setWidth 3) 1#8]),
          (.wr8Inp a 1#8, [.inpWr a 1#8, .audWr a 1#8]), (.wr8Aud a 1#8, [.audWr a 1#8]), (.wr8Exr a 1#8, [.cartWrx a 1#8]),
          (.wr8Sav a 1#8, [.cartWrs a 1#8]), (.wr8Prg a 1#8, [.cartWrp a 1#8])] :=
  ⟨rfl, fun _ _ _ h => h⟩
/-- Under either nesting. -/
theorem test_witness_Wr8DmaTriggersVideoThenAudio :
    (fresh.pwr = true ∧ fresh.dmaNesting = .after ∧
      ∃ c as, c = callHandler (monitor fresh 0x4014#16 2#8) (.vidDma 2#8) ∧ as = dmaAddrs c 2#8) ∧
    (nesting.pwr = true ∧ nesting.dmaNesting = .nested ∧
      ∃ c as, c = callHandler (monitor nesting 0x4014#16 2#8) (.vidDma 2#8) ∧ as = dmaAddrs c 2#8) :=
  ⟨⟨rfl, rfl, _, _, rfl, rfl⟩, rfl, rfl, _, _, rfl, rfl⟩
/-- The RD8 requests of a DMA that read 0x2002, cell 8 and 0x4016: their calls, their bytes, in order (V-RD8). -/
theorem test_nestedReads : shown (.next (nestedReads [0x2002#16, 0x0008#16, 0x4016#16] (answering [0x82#8, 0x40#8]))) =
    some ([.call (.vidRd 2#3), .call (.inpRd 0x4016#16)], [0x00082#20, 0x000F7#20, 0x00040#20]) := by rfl
theorem test_witness_NestedReadIsAnRd8 : (answering [0x82#8]).pwr = true := rfl
theorem test_witness_Wr8PerformsTheSelectedArm : watching.pwr = true := rfl
theorem test_witness_RamMirrorsShareACell : 0x07FF < 0x0800 ∧ 3 < 4 ∧ Memory.wf (holding [(0x7FF, 3#8)]).ram = true ∧
    (holding [(0x7FF, 3#8)]).pwr = true := by decide
theorem test_witness_VideoMirrorsShareARegister : 1023 < 1024 ∧ 7 < 8 ∧ (answering [1#8]).pwr = true := by decide
theorem test_witness_AudioHearsEveryLowIoWrite : fresh.pwr = true := rfl
theorem test_witness_MonitorFiresFirst : watching.pwr = true := rfl
theorem test_witness_OnlyWritesFireTheMonitor :
    (writeOf (.rd16 0x075E#16) = none ∧ ∃ t, exec (.rd16 0x075E#16) watching = .next t) ∧
      (∃ t, exec .capture watching = .next t) ∧ ∃ t, exec .warmReset watching = .next t :=
  ⟨⟨rfl, _, rfl⟩, ⟨_, rfl⟩, _, rfl⟩
theorem test_witness_MonitorChangesOnlyTraceEvents : fresh.dmaNesting = .after ∧
    (∃ t, exec (.wr8Dma 1#8) fresh = .next t) ∧ ∃ u, exec (.wr8Dma 1#8) { fresh with watchMap := [(0x4014#16, "D")] } = .next u :=
  ⟨rfl, ⟨_, rfl⟩, _, rfl⟩
/-- Under `nested`: a sprite DMA, and an instruction that is none. -/
theorem test_witness_MonitorChangesOnlyTraceEvents_nested :
    ((∃ t, exec (.wr8Dma 1#8) nesting = .next t) ∧
      ∃ u, exec (.wr8Dma 1#8) { nesting with watchMap := [(0x4014#16, "D")] } = .next u) ∧
    (∀ v, Instr.wr8Ram 0x075E#16 5#8 ≠ .wr8Dma v) ∧ (∃ t, exec (.wr8Ram 0x075E#16 5#8) nesting = .next t) ∧
      ∃ u, exec (.wr8Ram 0x075E#16 5#8) { nesting with watchMap := [(0x075E#16, "Coins")] } = .next u :=
  ⟨⟨⟨_, rfl⟩, _, rfl⟩, fun _ h => Instr.noConfusion h, ⟨_, rfl⟩, _, rfl⟩
/-- Two states with a sprite DMA presented under `nested`, one past a trace event and with 0x4014 watched. -/
theorem test_witness_NothingFlowsBackFromTheMonitor :
    SameButTraces { nesting with requests := [⟨0x1401402#27, []⟩] }
      { nesting with requests := [⟨0x1401402#27, []⟩], watchMap := [(0x4014#16, "D")], history := [.trace "D" 1#8] } :=
  ⟨rfl, rfl, rfl, rfl, rfl, rfl, rfl, rfl⟩
theorem test_witness_WorkedTraceExample :
    Memory.wf { fresh with watchMap := [(0x075E#16, "Coins")] }.ram = true ∧
      { fresh with watchMap := [(0x075E#16, "Coins")] }.pwr = true ∧
      { fresh with watchMap := [(0x075E#16, "Coins")] }.watchMap = [(0x075E#16, "Coins")] := ⟨rfl, rfl, rfl⟩
theorem test_witness_CaptureDeliversTheCells : (holding [(0x234, 0xAB#8)]).pwr = true := rfl
theorem test_witness_RestoreOverwritesEveryCell : fresh.pwr = true ∧ (List.replicate 2048 0#8).length = 2048 :=
  ⟨rfl, List.length_replicate⟩
theorem test_witness_RestoreOfCaptureGivesBackRam :
    Memory.wf (holding [(0x234, 0xAB#8)]).ram = true ∧ (holding [(0x234, 0xAB#8)]).pwr = true ∧ watching.pwr = true := by decide
theorem test_witness_CaptureOfRestoreGivesBackPayload : fresh.pwr = true ∧ (List.replicate 2048 7#8).length = 2048 :=
  ⟨rfl, List.length_replicate⟩
theorem test_witness_OnlyThreeInstructionsWriteRam :
    ∃ t, exec (.wr8Ram 0#16 1#8) fresh = .next t ∧ t.ram ≠ fresh.ram := ⟨_, rfl, by decide⟩
theorem test_witness_HandlerCallInventory : fresh.pwr = true ∧ fresh.dmaNesting = .after := ⟨rfl, rfl⟩

end Sys2Proof.Machine
end

/-! PROOFS of the family 00_scope (O12, O19): a step runs the decoded instruction, and every instruction answers a next state
that extends the one it started from. -/

namespace Sys2Proof.Machine

/-! The step -/

/-- With a request presented, taking it leaves the rest of the list on the port (R33). -/
theorem takeRequest_of_cons {s : State} {r : Request} {rest : List Request} (h : s.requests = r :: rest) :
    takeRequest s = some (r, { s with requests := rest }) := by
  simp only [takeRequest, h]

/-- A step whose request is taken and decoded is that instruction, run from what taking the request leaves. -/
theorem step_of_takeRequest_decode {s t : State} {r : Request} {i : Instr} (htake : takeRequest s = some (r, t))
    (hdecode : decode r.word r.payload = .ok i) : step s = exec i t := by
  simp only [step, htake, hdecode]

/-- Settles O12. -/
theorem stepRunsDecodedInstruction : Obligations.StepRunsDecodedInstruction := by
  intro s r rest i hrequests hdecode
  exact step_of_takeRequest_decode (takeRequest_of_cons hrequests) hdecode

/-! What every instruction keeps -/

/-- `t` extends `s`: the two parameters and the request list are those of `s`, and what `s` has put out on its ports stands
first in the logs of `t`. The block's own fields (R20) and the answers are left open. -/
structure Extends (s t : State) : Prop where
  watch : t.watch = s.watch
  dmaNesting : t.dmaNesting = s.dmaNesting
  requests : t.requests = s.requests
  history : s.history <+: t.history
  responses : s.responses <+: t.responses

namespace Extends

variable {s t : State}

theorem refl (s : State) : Extends s s := ⟨rfl, rfl, rfl, List.prefix_rfl, List.prefix_rfl⟩

/-- Events appended to the history extend a state. -/
theorem emits (h : Extends s t) (es : List Event) : Extends s { t with history := t.history ++ es } :=
  { h with history := h.history.trans (List.prefix_append _ _) }

/-- Responses appended to the log extend a state. -/
theorem responds (h : Extends s t) (rs : List Response) : Extends s { t with responses := t.responses ++ rs } :=
  { h with responses := h.responses.trans (List.prefix_append _ _) }

/-- The block's own fields and the answers may take any value. -/
theorem withBlock (h : Extends s t) (ram : List Host.Cell) (pwr : Bool) (bind : Bind) (watchMap : WatchMap)
    (answers : List Byte) :
    Extends s { t with ram := ram, pwr := pwr, bind := bind, watchMap := watchMap, answers := answers } :=
  { h with }

theorem callHandler (h : Extends s t) (c : HandlerCall) : Extends s (callHandler t c) := h.emits [.call c]

theorem readHandler (h : Extends s t) (c : HandlerCall) : Extends s (readHandler t c).2 :=
  (h.emits [.call c]).withBlock t.ram t.pwr t.bind t.watchMap t.answers.tail

theorem writeCell (h : Extends s t) (off : Address) (v : Byte) : Extends s (writeCell t off v) :=
  h.withBlock (ramWrite t.ram off.toNat v) t.pwr t.bind t.watchMap t.answers

/-- A reset re-binds and rebuilds the watch mapping (R244, R245). -/
theorem rebuildWatch_rebind (h : Extends s t) : Extends s (rebuildWatch (rebind t)) :=
  (h.emits [.rebind]).withBlock t.ram t.pwr bindSession t.watch t.answers

theorem monitor (h : Extends s t) (a : Address) (v : Byte) : Extends s (monitor t a v) := by
  rw [monitor_eq]
  exact h.emits _

theorem read8 (h : Extends s t) (a : Address) : Extends s (read8 a t).2 := by
  rw [read8_snd]
  exact (h.emits _).withBlock t.ram t.pwr t.bind t.watchMap _

/-- A sprite DMA's call of the Video Unit, whichever RD8 requests come from inside it (R200, R201). -/
theorem dmaCall (h : Extends s t) (v : Byte) : Extends s (dmaCall v t) := by
  rw [dmaCall_eq]
  exact (((h.emits [.call (.vidDma v)]).emits _).responds _).withBlock t.ram t.pwr t.bind t.watchMap _

end Extends

/-- An instruction's answer is a next state that extends `s`: no fault, no refusal. -/
def AnswersExtending (s : State) (r : Result) : Prop := ∃ t, r = .next t ∧ Extends s t

/-- An operation that has only extended `s` so far still does when it completes. -/
theorem Extends.complete {s t : State} (h : Extends s t) (d : Data) : AnswersExtending s (complete t d) :=
  ⟨_, complete_eq t d, h.responds _⟩

/-- So it does when it takes an exception. -/
theorem Extends.raise {s t : State} (h : Extends s t) (st : Status) : AnswersExtending s (raise t st) :=
  ⟨_, raise_eq t st, h.responds _⟩

/-- The guard answers what the guarded operation answers, or an exception. -/
theorem AnswersExtending.powered {s : State} {r : Result} (h : AnswersExtending s r) :
    AnswersExtending s (powered s r) := by
  cases hpwr : s.pwr with
  | true => rwa [powered_on hpwr]
  | false => rw [powered_off hpwr]; exact (Extends.refl s).raise _

/-- A RESTORE of any length: it loads the payload or raises SnapshotLengthError (R182, R183). -/
theorem execRestore_answersExtending (p : List Byte) (s : State) : AnswersExtending s (execRestore p s) := by
  refine AnswersExtending.powered ?_
  split
  · exact ((Extends.refl s).withBlock (ramLoad 0 p) s.pwr s.bind s.watchMap s.answers).complete _
  · exact (Extends.refl s).raise _

/-- Every instruction answers a next state, which extends the state it started from. -/
theorem exec_answersExtending (i : Instr) (s : State) : AnswersExtending s (exec i s) := by
  have start := Extends.refl s
  cases i with
  | coldReset =>
    have filled := start.withBlock ramCold s.pwr s.bind s.watchMap s.answers
    exact (filled.rebuildWatch_rebind.withBlock ramCold true bindSession s.watch s.answers).complete _
  | warmReset => exact (start.rebuildWatch_rebind.complete _).powered
  | rd8Ram a => exact (start.complete _).powered
  | rd8Vid a => exact ((start.readHandler _).complete _).powered
  | rd8Inp a => exact ((start.readHandler _).complete _).powered
  | rd8Lio a => exact (start.complete _).powered
  | rd8Exr a => exact ((start.readHandler _).complete _).powered
  | rd8Sav a => exact ((start.readHandler _).complete _).powered
  | rd8Prg a => exact ((start.readHandler _).complete _).powered
  | wr8Ram a v => exact (((start.monitor a v).writeCell _ _).complete _).powered
  | wr8Vid a v => exact (((start.monitor a v).callHandler _).complete _).powered
  | wr8Dma v => exact ((((start.monitor _ v).dmaCall _).callHandler _).complete _).powered
  | wr8Inp a v => exact ((((start.monitor a v).callHandler _).callHandler _).complete _).powered
  | wr8Aud a v => exact (((start.monitor a v).callHandler _).complete _).powered
  | wr8Exr a v => exact (((start.monitor a v).callHandler _).complete _).powered
  | wr8Sav a v => exact (((start.monitor a v).callHandler _).complete _).powered
  | wr8Prg a v => exact (((start.monitor a v).callHandler _).complete _).powered
  | rd16 a => exact (((start.read8 a).read8 (nextAddr a)).complete _).powered
  | capture => exact AnswersExtending.powered ⟨_, rfl, start.responds _⟩
  | restore p => exact execRestore_answersExtending p s
  | illegal => exact (start.raise _).powered

/-- The state an instruction answers extends the one it started from. -/
theorem extends_of_exec {i : Instr} {s t : State} (h : exec i s = .next t) : Extends s t := by
  obtain ⟨u, hu, hext⟩ := exec_answersExtending i s
  cases h.symm.trans hu
  exact hext

/-- Settles O19: parameters and request list are three fields of `Extends`. -/
theorem parametersAndRequestsAreKept : Obligations.ParametersAndRequestsAreKept := by
  intro i s t h
  have hext := extends_of_exec h
  exact ⟨hext.watch, hext.dmaNesting, hext.requests⟩

end Sys2Proof.Machine

/-! PROOFS of the family 10_state (O13, O14, O15, O18, O56): what a step does with nothing presented or with a word no row
takes, what an accepted instruction does to the block's own fields (R20) and to the response port, and the invariant. -/

namespace Sys2Proof.Machine

/-! The other two ends of a step -/

/-- With no request presented there is none to take. -/
theorem takeRequest_of_nil {s : State} (h : s.requests = []) : takeRequest s = none := by
  simp only [takeRequest, h]

/-- Settles O13. -/
theorem idleStepChangesNothing : Obligations.IdleStepChangesNothing := by
  intro s hrequests
  simp only [step, takeRequest_of_nil hrequests, idle]

/-- A step whose request no row takes answers DispatchAssert from what taking the request leaves (R212). -/
theorem step_of_takeRequest_reject {s t : State} {r : Request} {e : DecodeReject} (htake : takeRequest s = some (r, t))
    (hdecode : decode r.word r.payload = .error e) : step s = raise t .dispatchAssert := by
  simp only [step, htake, hdecode, rejectRequest]

/-! What an accepted instruction does -/

/-- The two resets (R240). -/
def isReset : Instr → Bool
  | .coldReset => true
  | .warmReset => true
  | _ => false

/-- Work RAM after an accepted instruction: the three writers of R29, and every other instruction. -/
def ramAfter (i : Instr) (s : State) : List Host.Cell :=
  match i with
  | .coldReset => ramCold
  | .wr8Ram a v => ramWrite s.ram (ramOffset a).toNat v
  | .restore p => if p.length = ramSize then ramLoad 0 p else s.ram
  | _ => s.ram

/-- The state in which the Video Unit takes over inside a sprite DMA: the monitor has fired, `VID.dma` is called (R153). -/
def dmaCalled (v : Byte) (s : State) : State := callHandler (monitor s 0x4014#16 v) (.vidDma v)

/-- The responses that an accepted instruction gives before its own: those to the Video Unit's RD8 inside a sprite DMA (R201). -/
def nestedResponses (i : Instr) (s : State) : List Response :=
  match i with
  | .wr8Dma v => (readBytes (dmaAddrs (dmaCalled v s) v) (dmaCalled v s)).map fun b => ⟨.ok, b.setWidth 16, none⟩
  | _ => []

/-- `u` is what the accepted instruction `i` has made of `s` before its own response: the block's own fields (R20) and the
response log. -/
structure Effect (i : Instr) (s u : State) : Prop where
  ram : u.ram = ramAfter i s
  pwr : u.pwr = true
  bind : u.bind = if isReset i then bindSession else s.bind
  watchMap : u.watchMap = if isReset i then s.watch else s.watchMap
  responses : u.responses = s.responses ++ nestedResponses i s

namespace Effect

variable {i : Instr} {s u : State}

/-- An instruction that is no reset, writes no Work RAM and nests no RD8 starts with its effect complete. -/
theorem start (hon : s.pwr = true) (hram : ramAfter i s = s.ram) (hreset : isReset i = false)
    (hnested : nestedResponses i s = []) : Effect i s s := by
  constructor <;> simp [hon, hram, hreset, hnested]

/-- Events and answers are no part of the effect. -/
theorem withHistory (h : Effect i s u) (es : List Event) (bs : List Byte) :
    Effect i s { u with history := es, answers := bs } :=
  { h with }

theorem called (h : Effect i s u) (c : HandlerCall) : Effect i s (callHandler u c) := h.withHistory _ _

theorem answered (h : Effect i s u) (c : HandlerCall) : Effect i s (readHandler u c).2 := h.withHistory _ _

theorem monitored (h : Effect i s u) (a : Address) (v : Byte) : Effect i s (monitor u a v) := by
  rw [monitor_eq]
  exact h.withHistory _ _

theorem read (h : Effect i s u) (a : Address) : Effect i s (read8 a u).2 := by
  rw [read8_snd]
  exact h.withHistory _ _

end Effect

/-- WR8.RAM: the cell written is that of `ramAfter` (R151). -/
theorem effect_wr8Ram {s : State} (hon : s.pwr = true) (a : Address) (v : Byte) :
    Effect (.wr8Ram a v) s (storeRam (ramOffset a) v (monitor s a v)) := by
  rw [storeRam, mask8_eq, monitor_eq]
  exact ⟨rfl, hon, rfl, rfl, (List.append_nil _).symm⟩

/-- WR8.DMA: the responses given are those to the Video Unit's RD8 (R153, R201). -/
theorem effect_wr8Dma {s : State} (hon : s.pwr = true) (v : Byte) :
    Effect (.wr8Dma v) s (storeDma v (monitor s 0x4014#16 v)) := by
  have hdma : Effect (.wr8Dma v) s (dmaCall v (monitor s 0x4014#16 v)) := by
    rw [dmaCall_eq, monitor_eq]
    exact ⟨rfl, hon, rfl, rfl, by simp only [nestedResponses, dmaCalled, monitor_eq]⟩
  rw [storeDma, mask8_eq]
  exact hdma.called _

/-- The instruction `i` is performed from `s` with the result `r`: its effect, then one response of its own. -/
def Performed (i : Instr) (s : State) (r : Result) : Prop :=
  ∃ (u : State) (own : Response), r = .next { u with responses := u.responses ++ [own] } ∧ Effect i s u

theorem Effect.complete {i : Instr} {s u : State} (h : Effect i s u) (d : Data) : Performed i s (complete u d) :=
  ⟨u, _, complete_eq u d, h⟩

theorem Effect.raise {i : Instr} {s u : State} (h : Effect i s u) (st : Status) : Performed i s (raise u st) :=
  ⟨u, _, raise_eq u st, h⟩

/-- With PWR = 1 the guard lets what is performed pass. -/
theorem Performed.powered {i : Instr} {s : State} {r : Result} (h : Performed i s r) (hon : s.pwr = true) :
    Performed i s (powered s r) := by
  rwa [powered_on hon]

/-- COLD_RESET is performed from every state (R241). -/
theorem performed_coldReset (s : State) : Performed .coldReset s (exec .coldReset s) :=
  Effect.complete ⟨rfl, rfl, rfl, rfl, (List.append_nil _).symm⟩ _

/-- RESTORE is performed with a payload of any length: it loads the cells or raises SnapshotLengthError (R182, R183). -/
theorem performed_restore {s : State} (hon : s.pwr = true) (p : List Byte) :
    Performed (.restore p) s (exec (.restore p) s) := by
  refine Performed.powered ?_ hon
  split
  · next hlen =>
    have hload : Effect (.restore p) s { s with ram := ramLoad 0 p } :=
      ⟨(if_pos hlen).symm, hon, rfl, rfl, (List.append_nil _).symm⟩
    exact hload.complete _
  · next hlen =>
    have hkeep : Effect (.restore p) s s := .start hon (if_neg hlen) rfl rfl
    exact hkeep.raise _

/-- While PWR = 1 every instruction is performed. -/
theorem exec_performed_of_on {s : State} (hon : s.pwr = true) (i : Instr) : Performed i s (exec i s) := by
  have start {i : Instr} := Effect.start (i := i) hon
  cases i with
  | coldReset => exact performed_coldReset s
  | warmReset =>
    have heffect : Effect .warmReset s (rebuildWatch (rebind s)) := ⟨rfl, hon, rfl, rfl, (List.append_nil _).symm⟩
    exact (heffect.complete _).powered hon
  | rd8Ram a => exact ((start rfl rfl rfl).complete _).powered hon
  | rd8Vid a => exact (((start rfl rfl rfl).answered _).complete _).powered hon
  | rd8Inp a => exact (((start rfl rfl rfl).answered _).complete _).powered hon
  | rd8Lio a => exact ((start rfl rfl rfl).complete _).powered hon
  | rd8Exr a => exact (((start rfl rfl rfl).answered _).complete _).powered hon
  | rd8Sav a => exact (((start rfl rfl rfl).answered _).complete _).powered hon
  | rd8Prg a => exact (((start rfl rfl rfl).answered _).complete _).powered hon
  | wr8Ram a v => exact ((effect_wr8Ram hon a v).complete _).powered hon
  | wr8Vid a v => exact ((((start rfl rfl rfl).monitored a v).called _).complete _).powered hon
  | wr8Dma v => exact ((effect_wr8Dma hon v).complete _).powered hon
  | wr8Inp a v => exact (((((start rfl rfl rfl).monitored a v).called _).called _).complete _).powered hon
  | wr8Aud a v => exact ((((start rfl rfl rfl).monitored a v).called _).complete _).powered hon
  | wr8Exr a v => exact ((((start rfl rfl rfl).monitored a v).called _).complete _).powered hon
  | wr8Sav a v => exact ((((start rfl rfl rfl).monitored a v).called _).complete _).powered hon
  | wr8Prg a v => exact ((((start rfl rfl rfl).monitored a v).called _).complete _).powered hon
  | rd16 a => exact ((((start rfl rfl rfl).read a).read (nextAddr a)).complete _).powered hon
  | capture => exact Performed.powered ⟨s, _, rfl, start rfl rfl rfl⟩ hon
  | restore p => exact performed_restore hon p
  | illegal => exact ((start rfl rfl rfl).raise _).powered hon

/-- While PWR = 0 everything but COLD_RESET raises NotPoweredOn (R214). -/
theorem exec_of_off {s : State} (hoff : s.pwr = false) {i : Instr} (hi : i ≠ .coldReset) :
    exec i s = raise s .notPoweredOn := by
  cases i with
  | coldReset => exact absurd rfl hi
  | _ => exact powered_off hoff _

/-- What an instruction can do: raise NotPoweredOn, or be accepted and performed. -/
theorem exec_cases (i : Instr) (s : State) :
    exec i s = raise s .notPoweredOn ∨ ((i = .coldReset ∨ s.pwr = true) ∧ Performed i s (exec i s)) := by
  by_cases hi : i = .coldReset
  · subst hi
    exact .inr ⟨.inl rfl, performed_coldReset s⟩
  · cases hpwr : s.pwr with
    | false => exact .inl (exec_of_off hpwr hi)
    | true => exact .inr ⟨.inr rfl, exec_performed_of_on hpwr i⟩

/-! Work RAM -/

/-- An instruction after which Work RAM differs is one of the three writers. -/
theorem writer_of_ramAfter_ne {i : Instr} {s : State} (h : ramAfter i s ≠ s.ram) :
    i = .coldReset ∨ (∃ a v, i = .wr8Ram a v) ∨ ∃ p, i = .restore p := by
  unfold ramAfter at h
  split at h
  · exact .inl rfl
  · exact .inr (.inl ⟨_, _, rfl⟩)
  · exact .inr (.inr ⟨_, rfl⟩)
  · exact absurd rfl h

/-- Settles O56: a refused instruction keeps Work RAM, an accepted one leaves `ramAfter`. -/
theorem onlyThreeInstructionsWriteRam : Obligations.OnlyThreeInstructionsWriteRam := by
  intro i s t hexec hram
  obtain hrefused | ⟨-, u, own, hu, heffect⟩ := exec_cases i s
  · cases hexec.symm.trans hrefused
    exact absurd rfl hram
  · cases hexec.symm.trans hu
    exact writer_of_ramAfter_ne (heffect.ram ▸ hram)

/-- Every accepted instruction keeps the canonical form of Work RAM. -/
theorem ramAfter_wf {s : State} (h : Memory.wf s.ram = true) (i : Instr) : Memory.wf (ramAfter i s) = true := by
  unfold ramAfter
  split
  · exact ramCold_wf
  · exact ramWrite_wf h (ramOffset_lt _)
  · split
    · next hlen => exact ramLoad_wf hlen
    · exact h
  · exact h

/-! The invariant of the block's state -/

/-- The request port and the response log take no part in the invariant. -/
theorem Inv.withPorts {s : State} (h : Inv s) (requests : List Request) (responses : List Response) :
    Inv { s with requests := requests, responses := responses } :=
  { h with }

/-- What an accepted instruction leaves of BIND and WATCHMAP: bound to the session, and WATCH. -/
theorem Effect.bound {i : Instr} {s u : State} (h : Effect i s u) (hinv : Inv s)
    (haccepted : i = .coldReset ∨ s.pwr = true) : u.bind = bindSession ∧ u.watchMap = s.watch := by
  rw [h.bind, h.watchMap]
  obtain rfl | hon := haccepted
  · exact ⟨rfl, rfl⟩
  · obtain ⟨hbind, hwatch⟩ := hinv.on hon
    simp only [hbind, hwatch, ite_self, and_self]

/-- Every instruction keeps the invariant. -/
theorem exec_keeps_inv {i : Instr} {s t : State} (hinv : Inv s) (hexec : exec i s = .next t) : Inv t := by
  have hkept : t.watch = s.watch := (extends_of_exec hexec).watch
  obtain hrefused | ⟨haccepted, u, own, hu, heffect⟩ := exec_cases i s
  · cases hexec.symm.trans hrefused
    exact hinv.withPorts _ _
  · cases hexec.symm.trans hu
    have hbound := heffect.bound hinv haccepted
    exact {
      ram_wf := heffect.ram ▸ ramAfter_wf hinv.ram_wf i
      watch_wf := hkept ▸ hinv.watch_wf
      on := fun _ => ⟨hbound.1, hbound.2.trans hkept.symm⟩
      off := fun hoff => absurd (heffect.pwr.symm.trans hoff) Bool.noConfusion }

/-- Settles O15: an idle step changes nothing, a rejected request appends a response, an instruction keeps the invariant. -/
theorem everyStepKeepsBlockInvariant : Obligations.EveryStepKeepsBlockInvariant := by
  intro s t hinv hstep
  cases hrequests : s.requests with
  | nil =>
    cases hstep.symm.trans (idleStepChangesNothing s hrequests)
    exact hinv
  | cons r rest =>
    have htake := takeRequest_of_cons hrequests
    have htaken : Inv { s with requests := rest } := hinv.withPorts rest s.responses
    cases hdecode : decode r.word r.payload with
    | ok i => exact exec_keeps_inv htaken ((step_of_takeRequest_decode htake hdecode).symm.trans hstep)
    | error e =>
      cases hstep.symm.trans (step_of_takeRequest_reject htake hdecode)
      exact htaken.withPorts _ _

/-- The keys that `WatchMap.dedup` keeps are not among those seen, and no two entries have one. -/
theorem dedup_keys (es : List (Address × String)) (seen : List Address) :
    (∀ a ∈ (WatchMap.dedup es seen).map Prod.fst, a ∉ seen) ∧ WatchWf (WatchMap.dedup es seen) := by
  induction es generalizing seen with
  | nil => exact ⟨fun _ h => absurd h List.not_mem_nil, List.nodup_nil⟩
  | cons e es ih =>
    unfold WatchMap.dedup
    split
    · exact ih seen
    · next hnew =>
      obtain ⟨hfresh, hnodup⟩ := ih (e.1 :: seen)
      refine ⟨?_, List.nodup_cons.mpr ⟨fun hmem => hfresh _ hmem List.mem_cons_self, hnodup⟩⟩
      intro a ha
      obtain rfl | hrest := List.mem_cons.mp ha
      · exact hnew
      · exact fun hseen => hfresh a hrest (List.mem_cons_of_mem _ hseen)

/-- WATCH is well formed, whatever its entries are (R177). -/
theorem config_watch_wf : WatchWf Config.watch := (dedup_keys Config.watchEntries []).2

theorem reset_inv : Inv State.reset where
  ram_wf := reset_memory_wf
  watch_wf := config_watch_wf
  on := fun _ => ⟨rfl, rfl⟩
  off := fun h => absurd h (by decide)

theorem powerUp_inv : Inv State.powerUp where
  ram_wf := rfl
  watch_wf := config_watch_wf
  on := fun h => absurd h (by decide)
  off := fun _ => ⟨rfl, rfl, rfl⟩

/-- An OK response without a payload is legal, whatever its data (R84). -/
theorem responseLegal_ok (d : Data) : ResponseLegal ⟨.ok, d, none⟩ :=
  ⟨nofun, fun h => absurd rfl h, nofun⟩

/-- Settles O18: the reset has put out one OK response and one Rebind, power-up nothing. -/
theorem resetAndPowerUpMeetInvariants : Obligations.ResetAndPowerUpMeetInvariants := by
  refine ⟨⟨reset_inv, powerUp_inv⟩, fun r hr => ?_, nofun, fun c hc => ?_, nofun⟩
  · cases List.mem_singleton.mp hr
    exact responseLegal_ok _
  · cases List.mem_singleton.mp hc

/-! The answer to a request -/

/-- The responses before an instruction's own are OK and carry no snapshot (R201). -/
theorem nestedResponses_ok {i : Instr} {s : State} {q : Response} (hq : q ∈ nestedResponses i s) :
    q.status = .ok ∧ q.payload = none := by
  unfold nestedResponses at hq
  split at hq
  · obtain ⟨b, -, rfl⟩ := List.mem_map.mp hq
    exact ⟨rfl, rfl⟩
  · exact absurd hq List.not_mem_nil

/-- There are such responses only to a sprite DMA under `nested` (R200). -/
theorem nested_of_nestedResponses_ne_nil {i : Instr} {s : State} (h : nestedResponses i s ≠ []) :
    s.dmaNesting = .nested ∧ ∃ v, i = .wr8Dma v := by
  unfold nestedResponses at h
  split at h
  · next v =>
    cases hnesting : s.dmaNesting with
    | nested => exact ⟨rfl, v, rfl⟩
    | after =>
      have hcalled : (dmaCalled v s).dmaNesting = .after := by rw [dmaCalled, monitor_eq]; exact hnesting
      rw [dmaAddrs_after hcalled] at h
      exact absurd rfl h
  · exact absurd rfl h

/-- Every instruction answers once for itself; before that there stand only OK responses without a payload, and only in an
accepted sprite DMA under `nested`. -/
theorem exec_answers_once (i : Instr) (s : State) :
    ∃ (t : State) (rs : List Response) (own : Response), exec i s = .next t ∧ t.responses = s.responses ++ rs ++ [own] ∧
      (∀ q ∈ rs, q.status = .ok ∧ q.payload = none) ∧
      (rs ≠ [] → s.pwr = true ∧ s.dmaNesting = .nested ∧ ∃ v, i = .wr8Dma v) := by
  obtain hrefused | ⟨haccepted, u, own, hu, heffect⟩ := exec_cases i s
  · exact ⟨_, [], _, hrefused, by rw [List.append_nil]; rfl, nofun, fun h => absurd rfl h⟩
  · refine ⟨_, nestedResponses i s, own, hu, by rw [← heffect.responses], fun _ => nestedResponses_ok, fun hne => ?_⟩
    obtain ⟨hnesting, v, rfl⟩ := nested_of_nestedResponses_ne_nil hne
    exact ⟨haccepted.resolve_left nofun, hnesting, v, rfl⟩

/-- Settles O14: the request's instruction answers once, and a word that no row takes is answered DispatchAssert. -/
theorem everyRequestIsAnsweredOnce : Obligations.EveryRequestIsAnsweredOnce := by
  intro s r rest hrequests
  have htake := takeRequest_of_cons hrequests
  cases hdecode : decode r.word r.payload with
  | ok i =>
    obtain ⟨t, rs, own, hexec, hresponses, hok, hnested⟩ := exec_answers_once i { s with requests := rest }
    refine ⟨t, rs, own, (step_of_takeRequest_decode htake hdecode).trans hexec, (extends_of_exec hexec).requests,
      hresponses, hok, fun hne => ?_⟩
    obtain ⟨hon, hnesting, v, rfl⟩ := hnested hne
    exact ⟨hon, hnesting, v, rfl⟩
  | error e =>
    exact ⟨_, [], _, step_of_takeRequest_reject htake hdecode, rfl, by rw [List.append_nil]; rfl, nofun,
      fun h => absurd rfl h⟩

end Sys2Proof.Machine

/-! PROOFS of the family 20_memory (O20, O45, O46): what has gone out stays, and the mirrors of a Work RAM cell and of a Video
register name one cell and one register. -/

namespace Sys2Proof

/-! The fields of a request word -/

@[simp] theorem opField_reqWord (o : BitVec 3) (a : Address) (v : Byte) : opField (reqWord o a v) = o := by
  rw [opField, reqWord, BitVec.append_assoc]
  exact BitVec.extractLsb'_append_eq_left

@[simp] theorem addrField_reqWord (o : BitVec 3) (a : Address) (v : Byte) : addrField (reqWord o a v) = a := by
  rw [addrField, reqWord, BitVec.extractLsb'_append_eq_of_le (by decide)]
  exact BitVec.extractLsb'_append_eq_right

@[simp] theorem dataField_reqWord (o : BitVec 3) (a : Address) (v : Byte) : dataField (reqWord o a v) = v :=
  BitVec.extractLsb'_append_eq_right

/-- A request word is its three fields (R80). -/
theorem reqWord_fields (w : ReqWord) : reqWord (opField w) (addrField w) (dataField w) = w := by
  rw [reqWord, opField, addrField, dataField,
    BitVec.extractLsb'_append_extractLsb'_eq_extractLsb' (start₁ := 8) (len₁ := 16) rfl,
    BitVec.extractLsb'_append_extractLsb'_eq_extractLsb' (start₁ := 0) (len₁ := 8) rfl]
  exact BitVec.extractLsb'_eq_self

theorem reqWord_eq_iff {o : BitVec 3} {a : Address} {v : Byte} {w : ReqWord} :
    reqWord o a v = w ↔ o = opField w ∧ a = addrField w ∧ v = dataField w := by
  constructor
  · rintro rfl
    simp
  · rintro ⟨rfl, rfl, rfl⟩
    exact reqWord_fields w

/-- A row takes a word exactly when each field, masked, is that of the row's pattern (R90). -/
theorem OpcodeRow.takes_reqWord_iff (r : OpcodeRow) (o : BitVec 3) (a : Address) (v : Byte) :
    r.takes (reqWord o a v) = true ↔ o &&& opField r.mask = opField r.pattern ∧
      a &&& addrField r.mask = addrField r.pattern ∧ v &&& dataField r.mask = dataField r.pattern := by
  have hand := reqWord_and o (opField r.mask) a (addrField r.mask) v (dataField r.mask)
  rw [reqWord_fields] at hand
  rw [takes, beq_iff_eq, hand, reqWord_eq_iff]

/-- The first row that takes a word builds its instruction, whatever rows follow (R90). -/
theorem decodeRows_append_cons {before after : List OpcodeRow} {r : OpcodeRow} {w : ReqWord} {p : List Byte}
    (hbefore : ∀ q ∈ before, q.takes w ≠ true) (hr : r.takes w = true) :
    decodeRows (before ++ r :: after) w p = .ok (r.build (addrField w) (dataField w) p) := by
  induction before with
  | nil => exact if_pos hr
  | cons q before ih =>
    obtain ⟨hq, hrest⟩ := List.forall_mem_cons.mp hbefore
    exact (if_neg hq).trans (ih hrest)

/-- A read in the Video region selects row 4, after both resets and the RAM row (R90). -/
theorem decode_rd8Vid {a : Address} (ha : a &&& 0xE000#16 = 0x2000#16) (v : Byte) (p : List Byte) :
    decode (reqWord 0#3 a v) p = .ok (.rd8Vid a) := by
  have hbefore : ∀ q ∈ opcodeRows.take 3, q.takes (reqWord 0#3 a v) ≠ true := by
    simp [opcodeRows, opcodeRowsRead, OpcodeRow.takes_reqWord_iff, opField, addrField, ha]
  have hrow : OpcodeRow.takes ⟨0x7E00000#27, 0x0200000#27, fun a _ _ => .rd8Vid a⟩ (reqWord 0#3 a v) = true :=
    OpcodeRow.takes_reqWord (mo := 7#3) (ma := 0xE000#16) rfl rfl rfl ha
  have hdecode := decodeRows_append_cons (after := opcodeRows.drop 4) (p := p) hbefore hrow
  rwa [addrField_reqWord] at hdecode

/-- A write in the Video region selects row 11, after the resets, the reads and the RAM row (R90). -/
theorem decode_wr8Vid {a : Address} (ha : a &&& 0xE000#16 = 0x2000#16) (v : Byte) (p : List Byte) :
    decode (reqWord 1#3 a v) p = .ok (.wr8Vid a v) := by
  have hbefore : ∀ q ∈ opcodeRows.take 10, q.takes (reqWord 1#3 a v) ≠ true := by
    simp [opcodeRows, opcodeRowsRead, opcodeRowsWrite, OpcodeRow.takes_reqWord_iff, opField, addrField, ha]
  have hrow : OpcodeRow.takes ⟨0x7E00000#27, 0x1200000#27, fun a v _ => .wr8Vid a v⟩ (reqWord 1#3 a v) = true :=
    OpcodeRow.takes_reqWord (mo := 7#3) (ma := 0xE000#16) rfl rfl rfl ha
  have hdecode := decodeRows_append_cons (after := opcodeRows.drop 11) (p := p) hbefore hrow
  rwa [addrField_reqWord, dataField_reqWord] at hdecode

end Sys2Proof

namespace Sys2Proof.Machine

/-! What has gone out stays -/

/-- Settles O20: the two logs are two fields of `Extends`. -/
theorem historyAndResponsesOnlyGrow : Obligations.HistoryAndResponsesOnlyGrow := by
  intro i s t hexec
  obtain ⟨es, hes⟩ := (extends_of_exec hexec).history
  obtain ⟨rs, hrs⟩ := (extends_of_exec hexec).responses
  exact ⟨⟨es, hes.symm⟩, ⟨rs, hrs.symm⟩⟩

/-! Regions and offsets -/

/-- The top three address bits, which the mask tests of DECODE look at, count blocks of 0x2000 addresses (R111). -/
theorem regionBits_toNat (a : Address) : (a &&& 0xE000#16).toNat = a.toNat / 0x2000 * 0x2000 := by
  have hand : (a &&& 0xE000#16).toNat = a.toNat &&& 0xE000 := BitVec.toNat_and ..
  have hhigh : (a.toNat &&& 0xE000) / 2 ^ 13 = a.toNat / 2 ^ 13 % 2 ^ 3 := by
    rw [Nat.and_div_two_pow]
    exact Nat.and_two_pow_sub_one_eq_mod _ 3
  have hlow : (a.toNat &&& 0xE000) % 2 ^ 13 = 0 := by
    rw [Nat.and_mod_two_pow]
    exact Nat.and_zero _
  have ha := a.isLt
  omega

/-- The offset in the RAM region is the address modulo 2048 (R85, R113). -/
theorem ramOffset_toNat (a : Address) : (ramOffset a).toNat = a.toNat % 2048 :=
  Nat.and_two_pow_sub_one_eq_mod a.toNat 11

/-- The index that the Video Unit receives is the address's low three bits (R85, R113). -/
theorem vidIndex_vidOffset (a : Address) : vidIndex (vidOffset a) = a.setWidth 3 := by
  rw [vidIndex, vidOffset, BitVec.setWidth_and]
  exact BitVec.and_allOnes

/-- Below 0x2000 DECODE gives the RAM region and the offset in it (R111, R113). -/
theorem decodeAddr_of_lt {a : Address} (ha : a.toNat < 0x2000) : decodeAddr a = (.ram, ramOffset a) := by
  have hregion : a &&& 0xE000#16 = 0x0000#16 := by
    apply BitVec.eq_of_toNat_eq
    rw [regionBits_toNat, Nat.div_eq_of_lt ha]
    rfl
  exact if_pos hregion

/-! The mirrors of a Work RAM cell -/

/-- RD8.RAM answers the cell at its address modulo 2048 and changes nothing else (R131). -/
theorem exec_rd8Ram {s : State} (hon : s.pwr = true) (a : Address) :
    exec (.rd8Ram a) s = .next { s with
      responses := s.responses ++ [⟨.ok, (ramRead s.ram (a.toNat % 2048)).setWidth 16, none⟩] } := by
  rw [← ramOffset_toNat]
  refine (powered_on hon _).trans ?_
  rw [completeRead, mask8_eq]
  rfl

/-- A mirror of cell `k` lies in the RAM region (R52). -/
theorem ramMirror_toNat {k m : Nat} (hk : k < 0x0800) (hm : m < 4) :
    (BitVec.ofNat 16 (k + 0x0800 * m)).toNat = k + 0x0800 * m :=
  Nat.mod_eq_of_lt (by omega)

/-- The offset of a mirror of cell `k` is `k` (R52). -/
theorem ramOffset_ramMirror {k m : Nat} (hk : k < 0x0800) (hm : m < 4) :
    ramOffset (BitVec.ofNat 16 (k + 0x0800 * m)) = BitVec.ofNat 16 k := by
  apply BitVec.eq_of_toNat_eq
  rw [ramOffset_toNat, ramMirror_toNat hk hm, BitVec.toNat_ofNat]
  omega

/-- Settles O45: both mirrors have the offset `k`, and what is written to a cell is read from it. -/
theorem ramMirrorsShareACell : Obligations.RamMirrorsShareACell := by
  intro k m n v s hk hm hn hwf hon
  obtain ⟨u, own, hwrite, heffect⟩ := exec_performed_of_on hon (.wr8Ram (BitVec.ofNat 16 (k + 0x0800 * m)) v)
  have hcell : ramRead u.ram ((BitVec.ofNat 16 (k + 0x0800 * n)).toNat % 2048) = v := by
    rw [heffect.ram, ramAfter, ramRead_ramWrite hwf, ← ramOffset_toNat, ramOffset_ramMirror hk hm,
      ramOffset_ramMirror hk hn, if_pos rfl]
  have hread := exec_rd8Ram (s := { u with responses := u.responses ++ [own] }) heffect.pwr
  refine ⟨_, _, hwrite, hread _, ?_, ?_⟩
  · rw [hcell]
  · rw [decodeAddr_of_lt (by rw [ramMirror_toNat hk hm]; omega), ramOffset_ramMirror hk hm]

/-! The mirrors of a Video register -/

/-- The events of a step are those appended to the history. -/
theorem newEvents_of_append {s t : State} {es : List Event} (h : t.history = s.history ++ es) : newEvents s t = es := by
  rw [newEvents, h, List.drop_left]

/-- A trace event is no handler call. -/
@[simp] theorem filterMap_eventCall_traceEvents (s : State) (a : Address) (v : Byte) :
    (traceEvents s a v).filterMap eventCall = [] := by
  unfold traceEvents
  split <;> rfl

/-- RD8.VID makes one call, to the register of the address's low three bits (R132). -/
theorem exec_rd8Vid_newEvents {s : State} (hon : s.pwr = true) (a : Address) :
    ∃ t, exec (.rd8Vid a) s = .next t ∧ newEvents s t = [.call (.vidRd (a.setWidth 3))] := by
  rw [← vidIndex_vidOffset]
  exact ⟨_, powered_on hon _, newEvents_of_append rfl⟩

/-- WR8.VID fires the monitor, then makes one call, to the register of the address's low three bits (R152). -/
theorem exec_wr8Vid_newEvents {s : State} (hon : s.pwr = true) (a : Address) (v : Byte) :
    ∃ t, exec (.wr8Vid a v) s = .next t ∧
      newEvents s t = traceEvents s a v ++ [.call (.vidWr (a.setWidth 3) v)] := by
  refine ⟨_, powered_on hon _, newEvents_of_append ?_⟩
  rw [storeVid, mask8_eq, vidIndex_vidOffset, monitor_eq]
  exact List.append_assoc ..

/-- A mirror of a Video register lies in the Video region (R53). -/
theorem regionBits_vidMirror {m i : Nat} (hm : m < 1024) (hi : i < 8) :
    BitVec.ofNat 16 (0x2000 + 8 * m + i) &&& 0xE000#16 = 0x2000#16 := by
  apply BitVec.eq_of_toNat_eq
  rw [regionBits_toNat, BitVec.toNat_ofNat, BitVec.toNat_ofNat]
  omega

/-- The low three bits of a mirror of a Video register are the register's index (R53). -/
theorem setWidth_vidMirror (m i : Nat) :
    (BitVec.ofNat 16 (0x2000 + 8 * m + i)).setWidth 3 = BitVec.ofNat 3 i := by
  rw [BitVec.setWidth_ofNat_of_le (by decide)]
  apply BitVec.eq_of_toNat_eq
  rw [BitVec.toNat_ofNat, BitVec.toNat_ofNat]
  omega

/-- Settles O46: every mirror selects the two Video rows, whose one call goes to the register of its low three bits. -/
theorem videoMirrorsShareARegister : Obligations.VideoMirrorsShareARegister := by
  intro m i v s hm hi hon
  have hregion := regionBits_vidMirror hm hi
  have hread := exec_rd8Vid_newEvents hon (BitVec.ofNat 16 (0x2000 + 8 * m + i))
  obtain ⟨t, hwrite, hevents⟩ := exec_wr8Vid_newEvents hon (BitVec.ofNat 16 (0x2000 + 8 * m + i)) v
  rw [setWidth_vidMirror] at hread hevents
  refine ⟨decode_rd8Vid hregion _ _, decode_wr8Vid hregion _ _, hread, t, hwrite, ?_⟩
  rw [hevents, List.filterMap_append, filterMap_eventCall_traceEvents]
  rfl

end Sys2Proof.Machine

/-! PROOFS of the family 30_encoding (O1 to O6, O9, O16): what the request decoder answers to each operation code, decode
against encode in both directions, the overlaps of the opcode table, and the legal responses. -/

namespace Sys2Proof

/-! The masks of the opcode table and the regions of DECODE -/

/-- A finer mask decides a coarser one. -/
theorem and_mask_of_and_mask {a m p m' : Address} (h : a &&& m = p) (hm : m &&& m' = m') : a &&& m' = p &&& m' := by
  rw [← h, BitVec.and_assoc, hm]

/-- The top three address bits name one of eight blocks (R111). -/
theorem regionBits_eq_block (a : Address) : ∃ k : Fin 8, a &&& 0xE000#16 = BitVec.ofNat 16 (k * 0x2000) := by
  have ha := a.isLt
  have hk : a.toNat / 0x2000 < 8 := by omega
  refine ⟨⟨a.toNat / 0x2000, hk⟩, BitVec.eq_of_toNat_eq ?_⟩
  rw [Machine.regionBits_toNat, BitVec.toNat_ofNat]
  exact (Nat.mod_eq_of_lt (by omega)).symm

theorem mask_ram_iff (a : Address) : a &&& 0xE000#16 = 0x0000#16 ↔ (decodeAddr a).1 = .ram := by
  unfold decodeAddr
  split_ifs <;> simp [*]

theorem mask_vid_iff (a : Address) : a &&& 0xE000#16 = 0x2000#16 ↔ (decodeAddr a).1 = .vid := by
  unfold decodeAddr
  split_ifs <;> simp [*]

theorem isLowIoAddr_iff (a : Address) : isLowIoAddr a = true ↔ (decodeAddr a).1 = .lio := by
  unfold decodeAddr
  split_ifs <;> simp [isLowIoAddr, *]

theorem mask_lio_iff (a : Address) : a &&& 0xFFE0#16 = 0x4000#16 ↔ (decodeAddr a).1 = .lio := by
  rw [← isLowIoAddr_iff]
  refine ⟨fun h => ?_, isLowIoAddr_mask⟩
  have hblock := and_mask_of_and_mask (m' := 0xE000#16) h rfl
  have hpage := and_mask_of_and_mask (m' := 0x1FE0#16) h rfl
  rw [isLowIoAddr, hblock, hpage]
  rfl

/-- The mask of the Extended-RAM rows takes the Low-I/O addresses too, which the rows before take first (R90). -/
theorem mask_exr_iff (a : Address) :
    a &&& 0xE000#16 = 0x4000#16 ↔ (decodeAddr a).1 = .lio ∨ (decodeAddr a).1 = .exr := by
  unfold decodeAddr
  split_ifs <;> simp [*]

/-- The condition of the Extended-RAM rows without those addresses. -/
theorem exrCondition_iff (a : Address) :
    ((a &&& 0xE000#16) == 0x4000#16 && (a &&& 0x1FE0#16) != 0#16) = true ↔ (decodeAddr a).1 = .exr := by
  unfold decodeAddr
  split_ifs <;> simp [*]

theorem mask_sav_iff (a : Address) : a &&& 0xE000#16 = 0x6000#16 ↔ (decodeAddr a).1 = .sav := by
  unfold decodeAddr
  split_ifs <;> simp [*]

/-- DECODE gives Program ROM where no other block fits, and these blocks are those with bit 15 set (R111). -/
theorem mask_prg_iff (a : Address) : a &&& 0x8000#16 = 0x8000#16 ↔ (decodeAddr a).1 = .prg := by
  have hrest : (decodeAddr a).1 = .prg ↔ a &&& 0xE000#16 ≠ 0x0000#16 ∧ a &&& 0xE000#16 ≠ 0x2000#16 ∧
      a &&& 0xE000#16 ≠ 0x4000#16 ∧ a &&& 0xE000#16 ≠ 0x6000#16 := by
    unfold decodeAddr
    split_ifs <;> simp [*]
  have hbit : a &&& 0x8000#16 = a &&& 0xE000#16 &&& 0x8000#16 := (BitVec.and_assoc a 0xE000#16 0x8000#16).symm
  obtain ⟨k, hk⟩ := regionBits_eq_block a
  rw [hrest, hbit, hk]
  clear hk
  revert k
  decide

theorem mask_inp_iff (a : Address) : a &&& 0xFFFE#16 = 0x4016#16 ↔ isInputAddr a = true := by
  refine ⟨fun h => ?_, isInputAddr_mask⟩
  have ha : a = 0x4016#16 ||| (a &&& 0x0001#16) := by
    rw [← h, ← BitVec.and_or_distrib_left]
    exact BitVec.and_allOnes.symm
  have hbit : a &&& 0x0001#16 = if a.getLsbD 0 then 0x0001#16 else 0x0000#16 := BitVec.and_twoPow a 0
  rw [ha, hbit]
  cases a.getLsbD 0 <;> rfl

theorem mask_dma_iff (a : Address) : a &&& 0xFFFF#16 = 0x4014#16 ↔ a = 0x4014#16 := by
  rw [show a &&& 0xFFFF#16 = a from BitVec.and_allOnes]

/-- The input addresses lie in the Low-I/O sub-range (R133). -/
theorem region_of_isInputAddr {a : Address} (h : isInputAddr a = true) : (decodeAddr a).1 = .lio :=
  (mask_lio_iff a).mp (and_mask_of_and_mask (isInputAddr_mask h) rfl)

/-! The rows of an operation code -/

/-- Rows that do not take a word may be left out of the search for its row. -/
theorem decodeRows_filter {rows : List OpcodeRow} {w : ReqWord} {keep : OpcodeRow → Bool}
    (h : ∀ r ∈ rows, r.takes w = true → keep r = true) (p : List Byte) :
    decodeRows (rows.filter keep) w p = decodeRows rows w p := by
  induction rows with
  | nil => rfl
  | cons r rows ih =>
    obtain ⟨hr, hrows⟩ := List.forall_mem_cons.mp h
    cases hkeep : keep r with
    | true => rw [List.filter_cons_of_pos hkeep, decodeRows, decodeRows, ih hrows]
    | false =>
      have hskip : r.takes w ≠ true := fun htakes => by simp [hr htakes] at hkeep
      rw [List.filter_cons_of_neg (by simp [hkeep]), ih hrows, decodeRows, if_neg hskip]

/-- Every row of the table looks at all of OP and at nothing of WDATA (R90). -/
theorem fields_of_mem_opcodeRows : ∀ r ∈ opcodeRows,
    opField r.mask = 7#3 ∧ dataField r.mask = 0#8 ∧ dataField r.pattern = 0#8 := by decide

/-- A row of the table takes a word when OP is the row's and ADDR, masked, is the row's (R90). -/
theorem takes_reqWord_iff_of_mem {r : OpcodeRow} (hr : r ∈ opcodeRows) (o : BitVec 3) (a : Address) (v : Byte) :
    r.takes (reqWord o a v) = true ↔ opField r.pattern = o ∧ a &&& addrField r.mask = addrField r.pattern := by
  obtain ⟨hop, hmask, hpattern⟩ := fields_of_mem_opcodeRows r hr
  rw [OpcodeRow.takes_reqWord_iff, hop, hmask, hpattern, BitVec.and_zero, show o &&& 7#3 = o from BitVec.and_allOnes]
  simp [eq_comm]

/-- The rows of one operation code, in priority order (R90). -/
def rowsOf (o : BitVec 3) : List OpcodeRow := opcodeRows.filter fun r => opField r.pattern == o

theorem decode_reqWord_eq_rowsOf (o : BitVec 3) (a : Address) (v : Byte) (p : List Byte) :
    decode (reqWord o a v) p = decodeRows (rowsOf o) (reqWord o a v) p := by
  refine (decodeRows_filter (fun r hr htakes => ?_) p).symm
  exact beq_iff_eq.mpr ((takes_reqWord_iff_of_mem hr o a v).mp htakes).1

/-- An operation code with one row, which looks at no address bit, gives that row's instruction. -/
theorem decode_of_rowsOf_eq_singleton {o : BitVec 3} {r : OpcodeRow} (hrows : rowsOf o = [r])
    (hmask : addrField r.mask = 0#16) (hpattern : addrField r.pattern = 0#16) (a : Address) (v : Byte) (p : List Byte) :
    decode (reqWord o a v) p = .ok (r.build a v p) := by
  obtain ⟨hr, hop⟩ := List.mem_filter.mp (show r ∈ rowsOf o from hrows ▸ List.mem_singleton_self r)
  have htakes : r.takes (reqWord o a v) = true :=
    (takes_reqWord_iff_of_mem hr o a v).mpr ⟨beq_iff_eq.mp hop, by rw [hmask, hpattern, BitVec.and_zero]⟩
  rw [decode_reqWord_eq_rowsOf, hrows, decodeRows, if_pos htakes, addrField_reqWord, dataField_reqWord]

/-! What each operation code decodes to -/

/-- The instruction of a byte read: the arm of R130 that DECODE selects. -/
def readInstr (a : Address) : Instr :=
  match (decodeAddr a).1 with
  | .ram => .rd8Ram a
  | .vid => .rd8Vid a
  | .lio => if isInputAddr a then .rd8Inp a else .rd8Lio a
  | .exr => .rd8Exr a
  | .sav => .rd8Sav a
  | .prg => .rd8Prg a

/-- The instruction of a byte write: the arm of R150 that DECODE selects. -/
def writeInstr (a : Address) (v : Byte) : Instr :=
  match (decodeAddr a).1 with
  | .ram => .wr8Ram a v
  | .vid => .wr8Vid a v
  | .lio => if a = 0x4014#16 then .wr8Dma v else if isInputAddr a then .wr8Inp a v else .wr8Aud a v
  | .exr => .wr8Exr a v
  | .sav => .wr8Sav a v
  | .prg => .wr8Prg a v

/-- OP = 0 decodes to a byte read: each row's address condition is that of a region, and the input addresses, which come
before the rest of the Low-I/O sub-range, lie in it (R90). -/
theorem decode_rd8 (a : Address) (v : Byte) (p : List Byte) : decode (reqWord 0#3 a v) p = .ok (readInstr a) := by
  rw [decode_reqWord_eq_rowsOf, show rowsOf 0#3 = opcodeRowsRead.drop 2 from rfl]
  simp only [opcodeRowsRead, List.drop_succ_cons, List.drop_zero, decodeRows, OpcodeRow.takes_reqWord_iff,
    addrField_reqWord]
  simp only [opField, addrField, dataField, BitVec.reduceExtractLsb', BitVec.reduceAnd, true_and, BitVec.and_zero,
    and_true, mask_ram_iff, mask_vid_iff, mask_inp_iff, mask_lio_iff, mask_exr_iff, mask_sav_iff, mask_prg_iff]
  by_cases hinp : isInputAddr a = true
  · simp [readInstr, region_of_isInputAddr hinp, hinp]
  · cases hregion : (decodeAddr a).1 <;> simp [readInstr, hregion, hinp]

/-- OP = 1 decodes to a byte write: as for the reads, with 0x4014 before the input addresses (R90). -/
theorem decode_wr8 (a : Address) (v : Byte) (p : List Byte) : decode (reqWord 1#3 a v) p = .ok (writeInstr a v) := by
  rw [decode_reqWord_eq_rowsOf, show rowsOf 1#3 = opcodeRowsWrite from rfl]
  simp only [opcodeRowsWrite, decodeRows, OpcodeRow.takes_reqWord_iff, addrField_reqWord, dataField_reqWord]
  simp only [opField, addrField, dataField, BitVec.reduceExtractLsb', BitVec.reduceAnd, true_and, BitVec.and_zero,
    and_true, mask_ram_iff, mask_vid_iff, mask_dma_iff, mask_inp_iff, mask_lio_iff, mask_exr_iff, mask_sav_iff,
    mask_prg_iff]
  by_cases hdma : a = 0x4014#16
  · subst hdma
    rfl
  by_cases hinp : isInputAddr a = true
  · simp [writeInstr, region_of_isInputAddr hinp, hdma, hinp]
  · cases hregion : (decodeAddr a).1 <;> simp [writeInstr, hregion, hdma, hinp]

/-- What a request word decodes to, by its three fields and its payload. -/
def instrOf (o : BitVec 3) (a : Address) (v : Byte) (p : List Byte) : Instr :=
  match o with
  | 0#3 => readInstr a
  | 1#3 => writeInstr a v
  | 2#3 => .rd16 a
  | 3#3 => .capture
  | 4#3 => .restore p
  | 5#3 => .illegal
  | 6#3 => .warmReset
  | 7#3 => .coldReset

theorem opcode_cases (o : BitVec 3) :
    o = 0#3 ∨ o = 1#3 ∨ o = 2#3 ∨ o = 3#3 ∨ o = 4#3 ∨ o = 5#3 ∨ o = 6#3 ∨ o = 7#3 := by
  revert o
  decide

/-- The request decoder, without its table: every word has an instruction (R90). -/
theorem decode_reqWord (o : BitVec 3) (a : Address) (v : Byte) (p : List Byte) :
    decode (reqWord o a v) p = .ok (instrOf o a v p) := by
  obtain rfl | rfl | rfl | rfl | rfl | rfl | rfl | rfl := opcode_cases o
  · exact decode_rd8 a v p
  · exact decode_wr8 a v p
  all_goals exact Eq.trans (decode_of_rowsOf_eq_singleton rfl (by rfl) (by rfl) a v p) rfl

theorem decode_eq_instrOf (w : ReqWord) (p : List Byte) :
    decode w p = .ok (instrOf (opField w) (addrField w) (dataField w) p) := by
  rw [← decode_reqWord, reqWord_fields]

/-! Every row's operands -/

/-- The selected read row admits the address: its condition is that of the region (R87). -/
theorem readInstr_wf (a : Address) : (readInstr a).wf = true := by
  unfold readInstr
  cases hregion : (decodeAddr a).1 with
  | ram => exact beq_iff_eq.mpr ((mask_ram_iff a).mpr hregion)
  | vid => exact beq_iff_eq.mpr ((mask_vid_iff a).mpr hregion)
  | lio => by_cases hinp : isInputAddr a = true <;> simp [Instr.wf, hinp, (isLowIoAddr_iff a).mpr hregion]
  | exr => exact (exrCondition_iff a).mpr hregion
  | sav => exact beq_iff_eq.mpr ((mask_sav_iff a).mpr hregion)
  | prg => exact beq_iff_eq.mpr ((mask_prg_iff a).mpr hregion)

/-- So does the selected write row. -/
theorem writeInstr_wf (a : Address) (v : Byte) : (writeInstr a v).wf = true := by
  unfold writeInstr
  cases hregion : (decodeAddr a).1 with
  | ram => exact beq_iff_eq.mpr ((mask_ram_iff a).mpr hregion)
  | vid => exact beq_iff_eq.mpr ((mask_vid_iff a).mpr hregion)
  | lio =>
    have hlow := (isLowIoAddr_iff a).mpr hregion
    by_cases hdma : a = 0x4014#16
    · simp [Instr.wf, hdma]
    · by_cases hinp : isInputAddr a = true <;> simp [Instr.wf, hdma, hinp, hlow]
  | exr => exact (exrCondition_iff a).mpr hregion
  | sav => exact beq_iff_eq.mpr ((mask_sav_iff a).mpr hregion)
  | prg => exact beq_iff_eq.mpr ((mask_prg_iff a).mpr hregion)

theorem instrOf_wf (o : BitVec 3) (a : Address) (v : Byte) (p : List Byte) : (instrOf o a v p).wf = true := by
  obtain rfl | rfl | rfl | rfl | rfl | rfl | rfl | rfl := opcode_cases o
  · exact readInstr_wf a
  · exact writeInstr_wf a v
  all_goals rfl

/-- Settles O3: the decoder's instruction is the selected row's, and the row admits it. -/
theorem everyWordSelectsARow : Obligations.EveryWordSelectsARow := fun w p =>
  ⟨_, decode_eq_instrOf w p, instrOf_wf ..⟩

/-! Encode of decode -/

theorem encode_readInstr (a : Address) : encode (readInstr a) = ⟨reqWord 0#3 a 0#8, []⟩ := by
  unfold readInstr
  cases (decodeAddr a).1 with
  | lio => cases isInputAddr a <;> rfl
  | _ => rfl

theorem encode_writeInstr (a : Address) (v : Byte) : encode (writeInstr a v) = ⟨reqWord 1#3 a v, []⟩ := by
  unfold writeInstr
  cases (decodeAddr a).1 with
  | lio =>
    by_cases hdma : a = 0x4014#16
    · subst hdma
      rfl
    · rw [if_neg hdma]
      cases isInputAddr a <;> rfl
  | _ => rfl

/-- The canonical form of a word by its fields: WR8 uses both, RD8 and RD16 the address, the others neither (R83). -/
theorem canonicalWord_reqWord (o : BitVec 3) (a : Address) (v : Byte) :
    Machine.canonicalWord (reqWord o a v) =
      if o = 1#3 then reqWord o a v else if o = 0#3 ∨ o = 2#3 then reqWord o a 0#8 else reqWord o 0#16 0#8 := by
  rw [Machine.canonicalWord, opField_reqWord, addrField_reqWord]

theorem encode_instrOf (o : BitVec 3) (a : Address) (v : Byte) (p : List Byte) :
    encode (instrOf o a v p) = ⟨Machine.canonicalWord (reqWord o a v), if o = 4#3 then p else []⟩ := by
  rw [canonicalWord_reqWord]
  obtain rfl | rfl | rfl | rfl | rfl | rfl | rfl | rfl := opcode_cases o
  · exact encode_readInstr a
  · exact encode_writeInstr a v
  all_goals rfl

/-- Settles O2: a word is its three fields, and the instruction of these encodes canonically. -/
theorem encodeOfDecodeIsCanonicalWord : Obligations.EncodeOfDecodeIsCanonicalWord := by
  intro w p i hdecode
  cases hdecode.symm.trans (decode_eq_instrOf w p)
  rw [encode_instrOf, reqWord_fields]
  exact ⟨rfl, rfl⟩

/-! Unused fields -/

/-- Settles O5: `instrOf` does not look at the fields that an operation does not use. -/
theorem unusedFieldsAreIgnored : Obligations.UnusedFieldsAreIgnored := by
  refine ⟨fun op a v v' p hop => ?_, fun op a a' v v' p hop => ?_, fun w p => ?_⟩
  · rw [decode_reqWord, decode_reqWord]
    obtain rfl | rfl := hop <;> rfl
  · rw [decode_reqWord, decode_reqWord]
    obtain rfl | rfl | rfl | rfl := hop <;> rfl
  · rw [← reqWord_fields w]
    generalize opField w = o, addrField w = a, dataField w = v
    rw [canonicalWord_reqWord, decode_reqWord]
    obtain rfl | rfl | rfl | rfl | rfl | rfl | rfl | rfl := opcode_cases o <;> exact decode_reqWord ..

/-! Decode of encode -/

/-- An operand of the rows for the rest of the Low-I/O sub-range lies in it and is no input address. -/
theorem region_of_isLowIoAddr_and_not {a : Address} (h : (isLowIoAddr a && !isInputAddr a) = true) :
    (decodeAddr a).1 = .lio ∧ isInputAddr a = false := by
  obtain ⟨hlow, hinp⟩ := Bool.and_eq_true_iff.mp h
  exact ⟨(isLowIoAddr_iff a).mp hlow, by simpa using hinp⟩

theorem readInstr_of_input {a : Address} (h : isInputAddr a = true) : readInstr a = .rd8Inp a := by
  simp [readInstr, region_of_isInputAddr h, h]

theorem writeInstr_of_input {a : Address} (h : isInputAddr a = true) (v : Byte) : writeInstr a v = .wr8Inp a v := by
  have hdma : a ≠ 0x4014#16 := fun ha => absurd (ha ▸ h) (by decide)
  simp [writeInstr, region_of_isInputAddr h, h, hdma]

/-- A well-formed instruction is the one its canonical request has: a row's operands lie in its region. -/
theorem decode_encode {i : Instr} (hwf : i.wf = true) : decode (encode i).word (encode i).payload = .ok i := by
  have hread (a : Address) (h : readInstr a = i) := h ▸ decode_rd8 a 0#8 []
  have hwrite (a : Address) (v : Byte) (h : writeInstr a v = i) := h ▸ decode_wr8 a v []
  cases i with
  | rd8Ram a => exact hread a (by rw [readInstr, (mask_ram_iff a).mp (beq_iff_eq.mp hwf)])
  | rd8Vid a => exact hread a (by rw [readInstr, (mask_vid_iff a).mp (beq_iff_eq.mp hwf)])
  | rd8Inp a => exact hread a (readInstr_of_input hwf)
  | rd8Lio a =>
    obtain ⟨hregion, hinp⟩ := region_of_isLowIoAddr_and_not hwf
    exact hread a (by simp [readInstr, hregion, hinp])
  | rd8Exr a => exact hread a (by rw [readInstr, (exrCondition_iff a).mp hwf])
  | rd8Sav a => exact hread a (by rw [readInstr, (mask_sav_iff a).mp (beq_iff_eq.mp hwf)])
  | rd8Prg a => exact hread a (by rw [readInstr, (mask_prg_iff a).mp (beq_iff_eq.mp hwf)])
  | wr8Ram a v => exact hwrite a v (by rw [writeInstr, (mask_ram_iff a).mp (beq_iff_eq.mp hwf)])
  | wr8Vid a v => exact hwrite a v (by rw [writeInstr, (mask_vid_iff a).mp (beq_iff_eq.mp hwf)])
  | wr8Dma v => exact hwrite 0x4014#16 v rfl
  | wr8Inp a v => exact hwrite a v (writeInstr_of_input hwf v)
  | wr8Aud a v =>
    obtain ⟨hlow, hdma⟩ := Bool.and_eq_true_iff.mp hwf
    obtain ⟨hregion, hinp⟩ := region_of_isLowIoAddr_and_not hlow
    exact hwrite a v (by simp [writeInstr, hregion, hinp, bne_iff_ne.mp hdma])
  | wr8Exr a v => exact hwrite a v (by rw [writeInstr, (exrCondition_iff a).mp hwf])
  | wr8Sav a v => exact hwrite a v (by rw [writeInstr, (mask_sav_iff a).mp (beq_iff_eq.mp hwf)])
  | wr8Prg a v => exact hwrite a v (by rw [writeInstr, (mask_prg_iff a).mp (beq_iff_eq.mp hwf)])
  | coldReset | warmReset | rd16 a | capture | restore p | illegal => exact decode_reqWord ..

/-- Settles O1. -/
theorem decodeOfEncodeIsInstruction : Obligations.DecodeOfEncodeIsInstruction := fun _ => decode_encode

/-! Overlaps -/

/-- Two rows that take one word agree where both look. -/
theorem OpcodeRow.patterns_agree {r q : OpcodeRow} {w : ReqWord} (hr : r.takes w = true) (hq : q.takes w = true) :
    r.pattern &&& q.mask = q.pattern &&& r.mask := by
  rw [← beq_iff_eq.mp hr, ← beq_iff_eq.mp hq, BitVec.and_assoc, BitVec.and_assoc, BitVec.and_comm r.mask]

/-- The pairs of rows that agree where both look (R90). -/
theorem agreeing_rows : ∀ k : Fin opcodeRows.length, ∀ j : Fin opcodeRows.length, j < k →
    opcodeRows[j].pattern &&& opcodeRows[k].mask = opcodeRows[k].pattern &&& opcodeRows[j].mask →
    (j.val + 1, k.val + 1) ∈ [(5, 6), (5, 7), (6, 7), (12, 14), (12, 15), (13, 14), (13, 15), (14, 15)] := by decide

/-- Settles O4: rows that take one word agree where both look. -/
theorem rowsOverlapOnlyInThreePlaces : Obligations.RowsOverlapOnlyInThreePlaces := by
  intro w j k r q hjk hr hq htakes htakes'
  obtain ⟨hj, rfl⟩ := List.getElem?_eq_some_iff.mp hr
  obtain ⟨hk, rfl⟩ := List.getElem?_eq_some_iff.mp hq
  exact agreeing_rows ⟨k, hk⟩ ⟨j, hj⟩ hjk (OpcodeRow.patterns_agree htakes htakes')

/-! Words of the table, and of responses -/

/-- Settles O6: the decoder is run on each word. -/
theorem tableWordsDecode : Obligations.TableWordsDecode := by
  unfold Obligations.TableWordsDecode
  decide

@[simp] theorem Response.word_status (r : Response) : r.word.extractLsb' 16 4 = r.status.code :=
  BitVec.extractLsb'_append_eq_left

@[simp] theorem Response.word_rdata (r : Response) : r.word.extractLsb' 0 16 = r.rdata :=
  BitVec.extractLsb'_append_eq_right

/-- Settles O9: each status has its code by definition. -/
theorem responseWordFields : Obligations.ResponseWordFields :=
  ⟨fun r => ⟨r.word_status, r.word_rdata⟩, rfl, rfl, rfl, rfl, rfl⟩

end Sys2Proof

namespace Sys2Proof.Machine

/-! The legal responses -/

/-- An OK response without a payload is legal, as is each to the Video Unit's RD8 (R84, R201). -/
theorem responseLegal_of_ok {r : Response} (hok : r.status = .ok) (hpayload : r.payload = none) : ResponseLegal r := by
  obtain ⟨st, d, p⟩ := r
  subst hok hpayload
  exact responseLegal_ok d

/-- An exception's response is legal unless it is DispatchAssert (R210, R218). -/
theorem responseLegal_exception {st : Status} (hst : st ≠ .dispatchAssert) : ResponseLegal ⟨st, 0#16, none⟩ :=
  ⟨hst, fun _ => ⟨rfl, rfl⟩, nofun⟩

/-- The response of a CAPTURE is legal: its payload is the 2048 cells (R180). -/
theorem responseLegal_capture (m : List Host.Cell) : ResponseLegal ⟨.ok, 0#16, some (ramDump m 0 ramSize)⟩ := by
  refine ⟨nofun, fun h => absurd rfl h, fun p hp => ?_⟩
  cases hp
  exact ⟨ramDump_length .., rfl⟩

/-- An instruction's answer is a next state whose last response is legal. -/
def AnswersLegally (r : Result) : Prop :=
  ∃ (u : State) (own : Response), r = .next { u with responses := u.responses ++ [own] } ∧ ResponseLegal own

theorem complete_answersLegally (s : State) (d : Data) : AnswersLegally (complete s d) :=
  ⟨s, _, complete_eq s d, responseLegal_ok d⟩

theorem raise_answersLegally (s : State) {st : Status} (hst : st ≠ .dispatchAssert) : AnswersLegally (raise s st) :=
  ⟨s, _, raise_eq s st, responseLegal_exception hst⟩

/-- The guard answers what the guarded operation answers, or NotPoweredOn. -/
theorem AnswersLegally.powered {s : State} {r : Result} (h : AnswersLegally r) : AnswersLegally (powered s r) := by
  cases hpwr : s.pwr with
  | true => rwa [powered_on hpwr]
  | false => rw [powered_off hpwr]; exact raise_answersLegally s nofun

/-- Every instruction's own response is legal: all but three rows complete with data alone. -/
theorem exec_answersLegally (i : Instr) (s : State) : AnswersLegally (exec i s) := by
  cases i with
  | coldReset => exact complete_answersLegally ..
  | capture => exact AnswersLegally.powered ⟨s, _, rfl, responseLegal_capture s.ram⟩
  | restore p =>
    refine AnswersLegally.powered ?_
    split
    · exact complete_answersLegally ..
    · exact raise_answersLegally s nofun
  | illegal => exact AnswersLegally.powered (raise_answersLegally s nofun)
  | _ => exact (complete_answersLegally ..).powered

/-- Every instruction keeps the responses legal: those before its own are OK and carry no payload. -/
theorem exec_keeps_responsesLegal {i : Instr} {s t : State} (hlegal : ∀ r ∈ s.responses, ResponseLegal r)
    (hexec : exec i s = .next t) : ∀ r ∈ t.responses, ResponseLegal r := by
  obtain ⟨t', rs, own, ht', hresponses, hok, -⟩ := exec_answers_once i s
  obtain ⟨u, last, hu, hlast⟩ := exec_answersLegally i s
  cases hexec.symm.trans ht'
  cases hexec.symm.trans hu
  obtain ⟨-, hown⟩ := List.append_inj' hresponses rfl
  cases hown
  rw [hresponses]
  intro r hr
  rw [List.mem_append, List.mem_append, List.mem_singleton] at hr
  obtain (hr | hr) | rfl := hr
  · exact hlegal r hr
  · exact responseLegal_of_ok (hok r hr).1 (hok r hr).2
  · exact hlast

/-- Settles O16: an idle step answers nothing, and the word of a request always selects an instruction (R90). -/
theorem everyStepKeepsResponsesLegal : Obligations.EveryStepKeepsResponsesLegal := by
  intro s t hlegal hstep
  cases hrequests : s.requests with
  | nil =>
    cases hstep.symm.trans (idleStepChangesNothing s hrequests)
    exact hlegal
  | cons r rest =>
    obtain ⟨i, hdecode, -⟩ := everyWordSelectsARow r.word r.payload
    have hrun := stepRunsDecodedInstruction s r rest i hrequests hdecode
    exact exec_keeps_responsesLegal (s := { s with requests := rest }) hlegal (hrun.symm.trans hstep)

end Sys2Proof.Machine

/-! PROOFS of the family 40_decoder (O7, O8): the mask tests of DECODE as ranges of addresses, and the offset it passes on. -/

namespace Sys2Proof

/-! The regions as ranges -/

/-- A mask of all bits from `n` up tests which block of `2 ^ n` addresses an address lies in (R111, R112). -/
theorem and_highMask_eq_iff (a p : Address) {m : Address} {n : Nat} (hm : m = BitVec.allOnes 16 <<< n) :
    a &&& m = p ↔ a.toNat / 2 ^ n * 2 ^ n = p.toNat := by
  have hle : a.toNat / 2 ^ n * 2 ^ n < 2 ^ 16 := (Nat.div_mul_le_self ..).trans_lt a.isLt
  rw [hm, ← BitVec.shiftLeft_ushiftRight, ← BitVec.toNat_inj, BitVec.toNat_shiftLeft, BitVec.toNat_ushiftRight,
    Nat.shiftRight_eq_div_pow, Nat.shiftLeft_eq, Nat.mod_eq_of_lt hle]

theorem region_ram_iff (a : Address) : (decodeAddr a).1 = .ram ↔ a.toNat < 0x2000 := by
  rw [← mask_ram_iff, and_highMask_eq_iff (m := 0xE000#16) (n := 13) a _ rfl, BitVec.toNat_ofNat]
  omega

theorem region_vid_iff (a : Address) : (decodeAddr a).1 = .vid ↔ 0x2000 ≤ a.toNat ∧ a.toNat < 0x4000 := by
  rw [← mask_vid_iff, and_highMask_eq_iff (m := 0xE000#16) (n := 13) a _ rfl, BitVec.toNat_ofNat]
  omega

/-- The two stages of the Low-I/O test together look at all bits from 5 up (R112). -/
theorem region_lio_iff (a : Address) : (decodeAddr a).1 = .lio ↔ 0x4000 ≤ a.toNat ∧ a.toNat < 0x4020 := by
  rw [← mask_lio_iff, and_highMask_eq_iff (m := 0xFFE0#16) (n := 5) a _ rfl, BitVec.toNat_ofNat]
  omega

/-- Extended RAM is what the Low-I/O sub-range leaves of its block (R112). -/
theorem region_exr_iff (a : Address) : (decodeAddr a).1 = .exr ↔ 0x4020 ≤ a.toNat ∧ a.toNat < 0x6000 := by
  calc (decodeAddr a).1 = .exr
    _ ↔ ((decodeAddr a).1 = .lio ∨ (decodeAddr a).1 = .exr) ∧ ¬ (decodeAddr a).1 = .lio := by
        cases (decodeAddr a).1 <;> decide
    _ ↔ 0x4020 ≤ a.toNat ∧ a.toNat < 0x6000 := by
        rw [← mask_exr_iff, and_highMask_eq_iff (m := 0xE000#16) (n := 13) a _ rfl, BitVec.toNat_ofNat, region_lio_iff]
        omega

theorem region_sav_iff (a : Address) : (decodeAddr a).1 = .sav ↔ 0x6000 ≤ a.toNat ∧ a.toNat < 0x8000 := by
  rw [← mask_sav_iff, and_highMask_eq_iff (m := 0xE000#16) (n := 13) a _ rfl, BitVec.toNat_ofNat]
  omega

theorem region_prg_iff (a : Address) : (decodeAddr a).1 = .prg ↔ 0x8000 ≤ a.toNat := by
  have ha := a.isLt
  rw [← mask_prg_iff, and_highMask_eq_iff (m := 0x8000#16) (n := 15) a _ rfl, BitVec.toNat_ofNat]
  omega

/-- Settles O7: each mask keeps all bits from some bit up, so each test asks for one block of addresses. -/
theorem regionsAreTheRanges : Obligations.RegionsAreTheRanges := fun a =>
  ⟨region_ram_iff a, region_vid_iff a, region_lio_iff a, region_exr_iff a, region_sav_iff a, region_prg_iff a⟩

/-! The offsets -/

/-- The offset in the Video region is the address modulo 8 (R113). -/
theorem vidOffset_toNat (a : Address) : (Machine.vidOffset a).toNat = a.toNat % 8 :=
  Nat.and_two_pow_sub_one_eq_mod a.toNat 3

theorem decodeAddr_of_vid {a : Address} (h : (decodeAddr a).1 = .vid) : decodeAddr a = (.vid, Machine.vidOffset a) := by
  have hblock := (mask_vid_iff a).mpr h
  have hram : a &&& 0xE000#16 ≠ 0x0000#16 := hblock ▸ by decide
  exact (if_neg hram).trans (if_pos hblock)

/-- The regions other than RAM and Video are passed the address itself (R113). -/
theorem decodeAddr_snd_of_ne {a : Address} (hram : (decodeAddr a).1 ≠ .ram) (hvid : (decodeAddr a).1 ≠ .vid) :
    (decodeAddr a).2 = a := by
  rw [decodeAddr, if_neg (mt (mask_ram_iff a).mp hram), if_neg (mt (mask_vid_iff a).mp hvid)]
  split_ifs <;> rfl

/-- Settles O8: by the region that the address's range selects. -/
theorem offsetsByRegion : Obligations.OffsetsByRegion := by
  intro a
  split_ifs with hlow hmid
  · rw [Machine.decodeAddr_of_lt hlow, Machine.ramOffset_toNat]
  · rw [decodeAddr_of_vid ((region_vid_iff a).mpr ⟨Nat.le_of_not_lt hlow, hmid⟩), vidOffset_toNat]
  · have hram : (decodeAddr a).1 ≠ .ram := mt (region_ram_iff a).mp hlow
    have hvid : (decodeAddr a).1 ≠ .vid := fun h => hmid ((region_vid_iff a).mp h).2
    rw [decodeAddr_snd_of_ne hram hvid]

end Sys2Proof

/-! PROOFS of the family 41_read_path (O33 to O40): the row that an RD8's word selects does what RD8 does at its address, and
RD16 is two of these. -/

namespace Sys2Proof.Machine

/-! The seven rows of RD8 -/

/-- With PWR = 1 an RD8 row completes with its byte and leaves what its arm leaves (R84, R138). -/
theorem powered_completeRead {s : State} (hon : s.pwr = true) (r : Byte × State) :
    powered s (completeRead r) = .next { r.2 with
      responses := r.2.responses ++ [⟨.ok, r.1.setWidth 16, none⟩] } := by
  rw [powered_on hon, completeRead, mask8_eq, complete_eq, byteData]

/-- Settles O33. -/
theorem rd8RamReadsTheCell : Obligations.Rd8RamReadsTheCell := fun a _ hon => exec_rd8Ram hon a

/-- Settles O34: the arm gives the constant 0 and the state itself. -/
theorem rd8LioReadsZero : Obligations.Rd8LioReadsZero := fun _ s hon => powered_completeRead hon (readLio s)

/-- Settles O35: each arm is the row's one call, and its byte the answer. -/
theorem rd8HandlerRowsCallOnce : Obligations.Rd8HandlerRowsCallOnce := by
  intro a s i c hon hrow
  have hcall := powered_completeRead hon (readHandler s c)
  simp only [List.mem_cons, Prod.mk.injEq, List.not_mem_nil, or_false] at hrow
  obtain ⟨rfl, rfl⟩ | ⟨rfl, rfl⟩ | ⟨rfl, rfl⟩ | ⟨rfl, rfl⟩ | ⟨rfl, rfl⟩ := hrow
  · rwa [← vidIndex_vidOffset] at hcall ⊢
  all_goals exact hcall

/-! RD8 at any address -/

theorem isInputAddr_iff (a : Address) : isInputAddr a = true ↔ a = 0x4016#16 ∨ a = 0x4017#16 := by
  rw [isInputAddr, Bool.or_eq_true, beq_iff_eq, beq_iff_eq]

/-- The offset that DECODE passes to the RAM arms (R113). -/
theorem ramOffset_of_decodeAddr {a off : Address} (h : decodeAddr a = (.ram, off)) : off = ramOffset a :=
  (Prod.mk.inj (h.symm.trans (decodeAddr_of_lt ((region_ram_iff a).mp (congrArg Prod.fst h))))).2

/-- The offset that DECODE passes to the Video-register arms (R113). -/
theorem vidOffset_of_decodeAddr {a off : Address} (h : decodeAddr a = (.vid, off)) : off = vidOffset a :=
  (Prod.mk.inj (h.symm.trans (decodeAddr_of_vid (congrArg Prod.fst h)))).2

/-- R130: the row selected by an RD8's word is the guard, then the arm of the address's region. -/
theorem exec_readInstr (a : Address) (s : State) : exec (readInstr a) s = powered s (completeRead (read8 a s)) := by
  unfold readInstr read8
  rcases hdecode : decodeAddr a with ⟨region, off⟩
  cases region with
  | ram =>
    rw [ramOffset_of_decodeAddr hdecode]
    rfl
  | vid =>
    rw [vidOffset_of_decodeAddr hdecode]
    rfl
  | lio =>
    simp only [isInputAddr_iff]
    split_ifs <;> rfl
  | exr | sav | prg => rfl

@[simp] theorem read8_snd_pwr (a : Address) (s : State) : (read8 a s).2.pwr = s.pwr := by rw [read8_snd]

@[simp] theorem read8_snd_responses (a : Address) (s : State) : (read8 a s).2.responses = s.responses := by
  rw [read8_snd]

/-- With PWR = 1 the selected row completes with the byte of RD8 and leaves what RD8 leaves. -/
theorem exec_readInstr_on {s : State} (hon : s.pwr = true) (a : Address) :
    exec (readInstr a) s = .next { (read8 a s).2 with
      responses := s.responses ++ [⟨.ok, (read8 a s).1.setWidth 16, none⟩] } := by
  rw [exec_readInstr, powered_completeRead hon, read8_snd_responses]

/-- Settles O36. -/
theorem rd8PerformsTheSelectedArm : Obligations.Rd8PerformsTheSelectedArm := fun a d p _ hon =>
  ⟨readInstr a, decode_rd8 a d p, exec_readInstr_on hon a⟩

/-! The calls of an RD8 -/

/-- The calls of the arm that DECODE selects are those of the address's range (R51, R199). -/
theorem armCalls_eq_readCalls (a : Address) : armCalls a = readCalls a := by
  unfold armCalls readCalls
  rcases hdecode : decodeAddr a with ⟨region, off⟩
  have hregion : (decodeAddr a).1 = region := congrArg Prod.fst hdecode
  cases region with
  | ram =>
    have hrange := (region_ram_iff a).mp hregion
    simp (disch := omega) only [if_pos]
  | vid =>
    have hrange := (region_vid_iff a).mp hregion
    simp (disch := omega) only [if_neg, if_pos, vidOffset_of_decodeAddr hdecode, vidIndex_vidOffset]
  | lio =>
    have hrange := (region_lio_iff a).mp hregion
    simp (disch := omega) only [if_neg, if_pos, ← BitVec.toNat_inj, BitVec.toNat_ofNat, Nat.reducePow, Nat.reduceMod]
  | exr =>
    have hrange := (region_exr_iff a).mp hregion
    simp (disch := omega) only [if_neg, if_pos]
  | sav =>
    have hrange := (region_sav_iff a).mp hregion
    simp (disch := omega) only [if_neg, if_pos]
  | prg =>
    have hrange := (region_prg_iff a).mp hregion
    simp (disch := omega) only [if_neg]

/-- An RD8 makes at most one call: none in the RAM region and at the Low-I/O addresses that are no input address (R139). -/
theorem readCalls_length (a : Address) :
    (readCalls a).length = if a.toNat < 0x2000 ∨
      (0x4000 ≤ a.toNat ∧ a.toNat < 0x4020 ∧ a.toNat ≠ 0x4016 ∧ a.toNat ≠ 0x4017) then 0 else 1 := by
  unfold readCalls
  split_ifs
  any_goals rfl
  all_goals omega

/-- Settles O37: an RD8 leaves its calls and takes their answers, and nothing else changes. -/
theorem rd8WritesNoBlockState : Obligations.Rd8WritesNoBlockState := by
  intro a d p s hon
  refine ⟨readInstr a, _, readCalls a, decode_rd8 a d p, exec_readInstr_on hon a, ?_⟩
  rw [read8_snd, armCalls_eq_readCalls]
  exact ⟨rfl, rfl, rfl, rfl, rfl, readCalls_length a⟩

/-! RD16 -/

/-- RD16 completes with the byte of the second RD8 above that of the first, and leaves what the two leave (R140). -/
theorem exec_rd16 {s : State} (hon : s.pwr = true) (a : Address) :
    exec (.rd16 a) s = .next { (read8 (a + 1#16) (read8 a s).2).2 with
      responses := s.responses ++ [⟨.ok, (read8 (a + 1#16) (read8 a s).2).1 ++ (read8 a s).1, none⟩] } := by
  refine (powered_on hon _).trans ?_
  rw [complete_eq, read16, mask8_eq, mask8_eq, wordData_eq, nextAddr, read8_snd_responses, read8_snd_responses]

/-- Settles O38: the response given between the two reads takes no part in the second. -/
theorem rd16IsTwoReads : Obligations.Rd16IsTwoReads := by
  intro a s hon
  have hsecond := exec_readInstr_on (a := a + 1#16) (s := { (read8 a s).2 with
    responses := s.responses ++ [⟨.ok, (read8 a s).1.setWidth 16, none⟩] }) ((read8_snd_pwr a s).trans hon)
  rw [read8_responses (a + 1#16) (read8 a s).2] at hsecond
  exact ⟨readInstr a, readInstr (a + 1#16), _, _, (read8 a s).1, (read8 (a + 1#16) (read8 a s).2).1,
    decode_rd8 .., decode_rd8 .., exec_readInstr_on hon a, rfl, hsecond, rfl, exec_rd16 hon a⟩

/-- Below 0x2000 an RD8 reads the cell at the address modulo 2048, and no state changes (R131). -/
theorem read8_of_lt {a : Address} (ha : a.toNat < 0x2000) (s : State) :
    read8 a s = (ramRead s.ram (a.toNat % 2048), s) := by
  rw [← ramOffset_toNat]
  simp only [read8, decodeAddr_of_lt ha, readRam, readCell]

/-- Settles O39: both addresses lie in the RAM region. -/
theorem rd16DoesNotWrapInAPage : Obligations.Rd16DoesNotWrapInAPage := by
  intro a s hon ha
  have hnext : (a + 1#16).toNat = a.toNat + 1 := by bv_omega
  rw [exec_rd16 hon, read8_of_lt (by omega), read8_of_lt (by omega), hnext]

/-- Settles O40: 0xFFFF lies in the Program-ROM region, and the address after it is 0. -/
theorem rd16WrapsAtTheTopOfTheSpace : Obligations.Rd16WrapsAtTheTopOfTheSpace := by
  intro s hon
  have hfirst : read8 0xFFFF#16 s = readPrg 0xFFFF#16 s := rfl
  have hsecond : read8 (0xFFFF#16 + 1#16) (readPrg 0xFFFF#16 s).2 = (ramRead s.ram 0, (readPrg 0xFFFF#16 s).2) :=
    read8_of_lt (by decide) _
  rw [exec_rd16 hon, hfirst, hsecond]
  rfl

end Sys2Proof.Machine

/-! PROOFS of the family 42_write_path (O41 to O44, O47): the row that a WR8's word selects does what WR8 does at its address,
and which handler calls that makes. -/

namespace Sys2Proof.Machine

/-- With PWR = 1 a WR8 row completes without data and leaves what its arm leaves (R84, R160). -/
theorem powered_completeWrite {s : State} (hon : s.pwr = true) (u : State) :
    powered s (completeWrite u) = .next { u with responses := u.responses ++ [⟨.ok, 0#16, none⟩] } := by
  rw [powered_on hon, completeWrite, complete_eq]

/-! WR8 at any address -/

/-- R150: the row selected by a WR8's word is the guard, then the monitor and the arm of the address's region. -/
theorem exec_writeInstr (a : Address) (v : Byte) (s : State) :
    exec (writeInstr a v) s = powered s (completeWrite (write8 a v s)) := by
  unfold writeInstr write8
  rcases hdecode : decodeAddr a with ⟨region, off⟩
  cases region with
  | ram =>
    rw [ramOffset_of_decodeAddr hdecode]
    rfl
  | vid =>
    rw [vidOffset_of_decodeAddr hdecode]
    rfl
  | lio =>
    simp only [isInputAddr_iff]
    split_ifs with hdma
    · rw [hdma]
      rfl
    · rfl
    · rfl
  | exr | sav | prg => rfl

/-- Settles O44. -/
theorem wr8PerformsTheSelectedArm : Obligations.Wr8PerformsTheSelectedArm := fun a v p s hon =>
  ⟨writeInstr a v, decode_wr8 a v p, by rw [exec_writeInstr, powered_completeWrite hon]⟩

/-! The eight rows of WR8 -/

/-- WR8.RAM writes the cell at its address modulo 2048, after the monitor (R151). -/
theorem exec_wr8Ram {s : State} (hon : s.pwr = true) (a : Address) (v : Byte) :
    exec (.wr8Ram a v) s = .next { s with
      ram := ramWrite s.ram (a.toNat % 2048) v,
      history := s.history ++ traceEvents s a v,
      responses := s.responses ++ [⟨.ok, 0#16, none⟩] } := by
  refine (powered_completeWrite hon _).trans ?_
  rw [storeRam, mask8_eq, writeCell, ramOffset_toNat, monitor_eq]

/-- Settles O41: of the store written, the cell reads the value and every other cell as before. -/
theorem wr8RamStoresOneCell : Obligations.Wr8RamStoresOneCell := fun a v _ hwf hon =>
  ⟨_, exec_wr8Ram hon a v, fun _ => ramRead_ramWrite hwf, rfl⟩

/-- Handler calls made one after another stand in the history in that order, and no state changes (R199). -/
theorem foldl_callHandler (cs : List HandlerCall) (s : State) :
    cs.foldl callHandler s = { s with history := s.history ++ cs.map .call } := by
  induction cs generalizing s with
  | nil => rw [List.foldl_nil, List.map_nil, List.append_nil]
  | cons c cs ih =>
    rw [List.foldl_cons, ih, callHandler, emit, List.append_assoc]
    rfl

/-- A WR8 whose arm only calls handlers completes with the trace event, then these calls (R152 to R160). -/
theorem powered_completeWrite_calls {s : State} (hon : s.pwr = true) (a : Address) (v : Byte) (cs : List HandlerCall) :
    powered s (completeWrite (cs.foldl callHandler (monitor s a v))) = .next { s with
      history := s.history ++ traceEvents s a v ++ cs.map .call,
      responses := s.responses ++ [⟨.ok, 0#16, none⟩] } := by
  rw [powered_completeWrite hon, foldl_callHandler, monitor_eq]

/-- Settles O42: each row's arm is its calls, one after another. -/
theorem wr8HandlerRowsForward : Obligations.Wr8HandlerRowsForward := by
  intro a v s i cs hon hrow
  rw [← powered_completeWrite_calls hon]
  simp only [List.mem_cons, Prod.mk.injEq, List.not_mem_nil, or_false] at hrow
  obtain ⟨rfl, rfl⟩ | ⟨rfl, rfl⟩ | ⟨rfl, rfl⟩ | ⟨rfl, rfl⟩ | ⟨rfl, rfl⟩ | ⟨rfl, rfl⟩ := hrow
  · rw [exec, execWr8Vid, storeVid, vidIndex_vidOffset, mask8_eq]
    rfl
  · rw [exec, execWr8Inp, storeInp, storeAud, mask8_eq]
    rfl
  · rw [exec, execWr8Aud, storeAud, mask8_eq]
    rfl
  · rw [exec, execWr8Exr, storeExr, mask8_eq]
    rfl
  · rw [exec, execWr8Sav, storeSav, mask8_eq]
    rfl
  · rw [exec, execWr8Prg, storePrg, mask8_eq]
    rfl

/-- WR8.DMA: the trace event, `VID.dma(v)`, what the Video Unit's RD8 leave, then the Audio Unit's write (R153, R201). -/
theorem exec_wr8Dma {s : State} (hon : s.pwr = true) (v : Byte) :
    exec (.wr8Dma v) s = .next { s with
      history := s.history ++ traceEvents s 0x4014#16 v ++ [.call (.vidDma v)] ++
        ((dmaAddrs (dmaCalled v s) v).flatMap readCalls).map .call ++ [.call (.audWr 0x4014#16 v)],
      answers := s.answers.drop ((dmaAddrs (dmaCalled v s) v).flatMap readCalls).length,
      responses := s.responses ++
        (readBytes (dmaAddrs (dmaCalled v s) v) (dmaCalled v s)).map (fun b => ⟨.ok, b.setWidth 16, none⟩) ++
        [⟨.ok, 0#16, none⟩] } := by
  refine (powered_completeWrite hon _).trans ?_
  rw [storeDma, storeAud, mask8_eq, dmaCall_eq, funext armCalls_eq_readCalls, ← dmaCalled, monitor_eq]
  rfl

/-- Settles O43: neither the monitor nor the call of the Video Unit changes the nesting. -/
theorem wr8DmaTriggersVideoThenAudio : Obligations.Wr8DmaTriggersVideoThenAudio := by
  rintro v s _ _ hon rfl rfl
  refine ⟨fun hafter => dmaAddrs_after ?_ v, exec_wr8Dma hon v⟩
  rw [callHandler_dmaNesting, monitor_eq]
  exact hafter

/-! The calls of a WR8 -/

/-- The handler calls that an accepted WR8 row makes from `s`, those of the Video Unit's own RD8 included (R199, R201). -/
def writeCalls (i : Instr) (s : State) : List HandlerCall :=
  match i with
  | .wr8Dma v => [.vidDma v] ++ (dmaAddrs (dmaCalled v s) v).flatMap readCalls ++ [.audWr 0x4014#16 v]
  | i => callsOf i

/-- Every accepted WR8 row appends its trace event and then its calls to the history (R170, R199). -/
theorem exec_write_history {i : Instr} {a : Address} {v : Byte} {s : State} (hon : s.pwr = true)
    (hwrite : writeOf i = some (a, v)) :
    ∃ t, exec i s = .next t ∧ t.history = s.history ++ traceEvents s a v ++ (writeCalls i s).map .call := by
  have hrow := wr8HandlerRowsForward a v s i (callsOf i) hon
  cases i with
  | wr8Ram b w =>
    cases hwrite
    exact ⟨_, exec_wr8Ram hon a v, (List.append_nil _).symm⟩
  | wr8Dma w =>
    cases hwrite
    exact ⟨_, exec_wr8Dma hon v, by simp [writeCalls]⟩
  | wr8Vid b w | wr8Inp b w | wr8Aud b w | wr8Exr b w | wr8Sav b w | wr8Prg b w =>
    cases hwrite
    exact ⟨_, hrow (by simp [callsOf]), rfl⟩
  | _ => cases hwrite

/-- The row selected by a WR8's word is a write of its value at its address. -/
theorem writeOf_writeInstr (a : Address) (v : Byte) : writeOf (writeInstr a v) = some (a, v) := by
  unfold writeInstr
  cases (decodeAddr a).1 with
  | lio =>
    split_ifs with hdma
    · rw [hdma]
      rfl
    · rfl
    · rfl
  | _ => rfl

/-! The Audio Unit -/

/-- An RD8 makes no call of the Audio Unit (R139, R199). -/
theorem audio_not_mem_readCalls (a : Address) : ∀ c ∈ readCalls a, isAudio (.call c) = false := by
  unfold readCalls
  split_ifs <;> simp [isAudio, HandlerCall.port]

@[simp] theorem filter_isAudio_traceEvents (s : State) (a : Address) (v : Byte) :
    (traceEvents s a v).filter isAudio = [] := by
  unfold traceEvents
  split <;> rfl

/-- Nor do the RD8 that the Video Unit issues inside a sprite DMA. -/
theorem filter_isAudio_readCalls (as : List Address) : ((as.flatMap readCalls).map Event.call).filter isAudio = [] := by
  simp only [List.filter_eq_nil_iff, List.mem_map, List.mem_flatMap]
  rintro _ ⟨c, ⟨a, -, hc⟩, rfl⟩
  simp [audio_not_mem_readCalls a c hc]

/-- Of the calls of a WR8 those of the Audio Unit: one in the Low-I/O sub-range, none elsewhere (R156). -/
theorem filter_isAudio_writeCalls (a : Address) (v : Byte) (s : State) :
    ((writeCalls (writeInstr a v) s).map Event.call).filter isAudio =
      if (decodeAddr a).1 = .lio then [.call (.audWr a v)] else [] := by
  unfold writeInstr
  cases (decodeAddr a).1 with
  | lio =>
    simp only [if_true]
    split_ifs with hdma
    · simp [writeCalls, filter_isAudio_readCalls, isAudio, HandlerCall.port, hdma]
    · rfl
    · rfl
  | _ => rfl

/-- Settles O47: the trace event is no call, and the Low-I/O sub-range is its 32 addresses. -/
theorem audioHearsEveryLowIoWrite : Obligations.AudioHearsEveryLowIoWrite := by
  intro a v p s hon
  obtain ⟨t, hexec, hhistory⟩ := exec_write_history hon (writeOf_writeInstr a v)
  rw [List.append_assoc] at hhistory
  refine ⟨writeInstr a v, t, decode_wr8 a v p, hexec, ?_⟩
  rw [newEvents_of_append hhistory, List.filter_append, filter_isAudio_traceEvents, filter_isAudio_writeCalls,
    List.nil_append]
  simp only [region_lio_iff]

end Sys2Proof.Machine

/-! PROOFS of the family 43_monitor (O48 to O51, O59): two runs that differ in what the monitor watches, the events of the
instructions that do not write, and the worked example. -/

namespace Sys2Proof.Machine

/-! Two states that differ only in what the monitor touches -/

/-- But for their data the responses to the Video Unit's RD8 are the same, whatever bytes they carry (R201). -/
theorem map_readBytes_responses (as : List Address) (s : State) :
    ((readBytes as s).map (fun b => (⟨.ok, b.setWidth 16, none⟩ : Response))).map (fun r => (r.status, r.payload)) =
      List.replicate as.length (.ok, none) := by
  simp only [List.map_map, Function.comp_def, List.map_const', readBytes_length]

namespace SameButTraces

variable {s u : State}

/-- WATCHMAP takes no part in the relation. -/
theorem of_watchMap (s : State) (m : WatchMap) : SameButTraces s { s with watchMap := m } :=
  ⟨rfl, rfl, rfl, rfl, rfl, rfl, rfl, rfl⟩

/-- Events that differ only in trace events keep the relation. -/
theorem appends (h : SameButTraces s u) {es fs : List Event} (hes : untraced fs = untraced es) :
    SameButTraces { s with history := s.history ++ es } { u with history := u.history ++ fs } :=
  { h with history := by rw [untraced_append, untraced_append, h.history, hes] }

/-- Responses that differ only in their data keep the relation. -/
theorem responds (h : SameButTraces s u) {rs qs : List Response}
    (hrs : qs.map (fun r => (r.status, r.payload)) = rs.map (fun r => (r.status, r.payload))) :
    SameButTraces { s with responses := s.responses ++ rs } { u with responses := u.responses ++ qs } :=
  { h with responses := by rw [List.map_append, List.map_append, h.responses, hrs] }

theorem withRequests (h : SameButTraces s u) (requests : List Request) :
    SameButTraces { s with requests := requests } { u with requests := requests } :=
  { h with requests := rfl }

theorem callHandler (h : SameButTraces s u) (c : HandlerCall) :
    SameButTraces (callHandler s c) (callHandler u c) := h.appends rfl

/-- A handler read takes the same answers off both lists; the byte itself is no part of the state. -/
theorem readHandler (h : SameButTraces s u) (c : HandlerCall) :
    SameButTraces (readHandler s c).2 (readHandler u c).2 :=
  { h.callHandler c with answers := congrArg List.tail h.answers }

/-- The monitor appends trace events only, whatever the two states watch (R172). -/
theorem monitor (h : SameButTraces s u) (a : Address) (v : Byte) :
    SameButTraces (monitor s a v) (monitor u a v) := by
  rw [monitor_eq, monitor_eq]
  exact h.appends (by rw [untraced_traceEvents, untraced_traceEvents])

theorem writeCell (h : SameButTraces s u) (off : Address) (v : Byte) :
    SameButTraces (writeCell s off v) (writeCell u off v) :=
  { h with ram := congrArg (ramWrite · off.toNat v) h.ram }

/-- A reset rebuilds WATCHMAP from WATCH, which may differ (R244, R245). -/
theorem rebuildWatch_rebind (h : SameButTraces s u) :
    SameButTraces (rebuildWatch (rebind s)) (rebuildWatch (rebind u)) :=
  { h.appends (es := [.rebind]) rfl with bind := rfl }

theorem coldFill (h : SameButTraces s u) : SameButTraces (coldFill s) (coldFill u) := { h with ram := rfl }

theorem powerOn (h : SameButTraces s u) : SameButTraces (powerOn s) (powerOn u) := { h with pwr := rfl }

/-- An RD8 at an address makes the same calls in both states (R130). -/
theorem read8 (h : SameButTraces s u) (a : Address) : SameButTraces (read8 a s).2 (read8 a u).2 := by
  rw [read8_snd, read8_snd]
  exact { h.appends rfl with answers := congrArg (List.drop _) h.answers }

/-- A sprite DMA's call of the Video Unit: both states have the same RD8 requests from inside it, each answered OK (R201). -/
theorem dmaCall (h : SameButTraces s u) (v : Byte) : SameButTraces (dmaCall v s) (dmaCall v u) := by
  rw [dmaCall_eq, dmaCall_eq, dmaAddrs_congr (h.callHandler _), List.append_assoc, List.append_assoc]
  have hevents := h.appends (es := [.call (.vidDma v)] ++
    ((dmaAddrs (Machine.callHandler s (.vidDma v)) v).flatMap armCalls).map .call) rfl
  exact { hevents.responds ((map_readBytes_responses ..).trans (map_readBytes_responses ..).symm) with
    answers := congrArg (List.drop _) h.answers }

end SameButTraces

/-- Two answers are next states that differ only in what the monitor touches and in response data. -/
def AnswerAlike (r q : Result) : Prop := ∃ t w, r = .next t ∧ q = .next w ∧ SameButTraces t w

theorem SameButTraces.complete {s u : State} (h : SameButTraces s u) (d e : Data) :
    AnswerAlike (complete s d) (complete u e) :=
  ⟨_, _, complete_eq s d, complete_eq u e, h.responds rfl⟩

theorem SameButTraces.raise {s u : State} (h : SameButTraces s u) (st : Status) :
    AnswerAlike (raise s st) (raise u st) :=
  ⟨_, _, raise_eq s st, raise_eq u st, h.responds rfl⟩

/-- The guard passes both or answers both with NotPoweredOn. -/
theorem AnswerAlike.powered {s u : State} {r q : Result} (hr : AnswerAlike r q) (h : SameButTraces s u) :
    AnswerAlike (powered s r) (powered u q) := by
  cases hpwr : s.pwr with
  | true => rwa [powered_on hpwr, powered_on (h.pwr.trans hpwr)]
  | false =>
    rw [powered_off hpwr, powered_off (h.pwr.trans hpwr)]
    exact h.raise _

/-- CAPTURE answers both with the same cells (R180). -/
theorem SameButTraces.capture {s u : State} (h : SameButTraces s u) : AnswerAlike (execCapture s) (execCapture u) := by
  refine AnswerAlike.powered ⟨_, _, rfl, rfl, ?_⟩ h
  rw [h.ram]
  exact h.responds rfl

/-- RESTORE loads the payload in both or raises SnapshotLengthError in both (R182, R183). -/
theorem SameButTraces.restore {s u : State} (h : SameButTraces s u) (p : List Byte) :
    AnswerAlike (execRestore p s) (execRestore p u) := by
  refine AnswerAlike.powered ?_ h
  split
  · have hload : SameButTraces { s with ram := ramLoad 0 p } { u with ram := ramLoad 0 p } := { h with ram := rfl }
    exact hload.complete _ _
  · exact h.raise _

/-- R172 for one instruction: two states that differ only in what the monitor touches are led to two such states. -/
theorem exec_answerAlike {s u : State} (h : SameButTraces s u) (i : Instr) : AnswerAlike (exec i s) (exec i u) := by
  cases i with
  | coldReset => exact h.coldFill.rebuildWatch_rebind.powerOn.complete _ _
  | warmReset => exact (h.rebuildWatch_rebind.complete _ _).powered h
  | rd8Ram a | rd8Lio a => exact (h.complete _ _).powered h
  | rd8Vid a | rd8Inp a | rd8Exr a | rd8Sav a | rd8Prg a => exact ((h.readHandler _).complete _ _).powered h
  | wr8Ram a v => exact (((h.monitor a v).writeCell _ _).complete _ _).powered h
  | wr8Dma v => exact ((((h.monitor _ v).dmaCall _).callHandler _).complete _ _).powered h
  | wr8Inp a v => exact ((((h.monitor a v).callHandler _).callHandler _).complete _ _).powered h
  | wr8Vid a v | wr8Aud a v | wr8Exr a v | wr8Sav a v | wr8Prg a v =>
    exact (((h.monitor a v).callHandler _).complete _ _).powered h
  | rd16 a => exact (((h.read8 a).read8 (nextAddr a)).complete _ _).powered h
  | capture => exact h.capture
  | restore p => exact h.restore p
  | illegal => exact (h.raise _).powered h

/-- Settles O59: both steps idle, or both run the instruction that the one request of both selects. -/
theorem nothingFlowsBackFromTheMonitor : Obligations.NothingFlowsBackFromTheMonitor := by
  intro s u h
  cases hrequests : s.requests with
  | nil => exact ⟨s, u, idleStepChangesNothing s hrequests, idleStepChangesNothing u (h.requests.trans hrequests), h⟩
  | cons r rest =>
    obtain ⟨i, hdecode, -⟩ := everyWordSelectsARow r.word r.payload
    rw [stepRunsDecodedInstruction s r rest i hrequests hdecode,
      stepRunsDecodedInstruction u r rest i (h.requests.trans hrequests) hdecode]
    exact exec_answerAlike (h.withRequests rest) i

/-! The responses of a run with another watch mapping -/

@[simp] theorem monitor_responses (s : State) (a : Address) (v : Byte) : (monitor s a v).responses = s.responses := by
  rw [monitor_eq]

/-- An RD8 does not look at WATCHMAP: neither its byte nor what else it leaves depends on it (R130, R172). -/
theorem read8_watchMap (a : Address) (s : State) (m : WatchMap) :
    read8 a { s with watchMap := m } = ((read8 a s).1, { (read8 a s).2 with watchMap := m }) := by
  unfold read8
  rcases decodeAddr a with ⟨region, off⟩
  cases region with
  | lio => simp only; split <;> rfl
  | _ => rfl

/-- Nor does an RD16. -/
theorem read16_watchMap (a : Address) (s : State) (m : WatchMap) :
    read16 a { s with watchMap := m } = ((read16 a s).1, { (read16 a s).2 with watchMap := m }) := by
  simp only [read16, read8_watchMap]

/-- Under `after` a sprite DMA's call of the Video Unit gives no response (R200). -/
theorem dmaCall_responses_of_after {s : State} (h : s.dmaNesting = .after) (v : Byte) :
    (dmaCall v s).responses = s.responses := by
  have haddrs : dmaAddrs (callHandler s (.vidDma v)) v = [] := dmaAddrs_after (s := callHandler s _) h v
  rw [dmaCall_eq, haddrs]
  exact List.append_nil _

/-- Nor do the monitor before that call and the Audio Unit's write after it (R153). -/
theorem storeDma_monitor_responses_of_after {s : State} (h : s.dmaNesting = .after) (v : Byte) :
    (storeDma v (monitor s 0x4014#16 v)).responses = s.responses := by
  have hmonitored : (monitor s 0x4014#16 v).dmaNesting = .after := by rw [monitor_eq]; exact h
  rw [storeDma, storeAud, callHandler_responses, dmaCall_responses_of_after hmonitored, monitor_responses]

/-- Two answers are next states with one response log, data included. -/
def RespondAlike (r q : Result) : Prop := ∃ t w, r = .next t ∧ q = .next w ∧ w.responses = t.responses

theorem complete_respondAlike {s u : State} (d : Data) (h : u.responses = s.responses := by rfl) :
    RespondAlike (complete s d) (complete u d) :=
  ⟨_, _, complete_eq s d, complete_eq u d, congrArg (· ++ _) h⟩

theorem raise_respondAlike {s u : State} (st : Status) (h : u.responses = s.responses := by rfl) :
    RespondAlike (raise s st) (raise u st) :=
  ⟨_, _, raise_eq s st, raise_eq u st, congrArg (· ++ _) h⟩

/-- The guard passes both or answers both with NotPoweredOn. -/
theorem RespondAlike.powered {s u : State} {r q : Result} (hr : RespondAlike r q) (hpwr : u.pwr = s.pwr := by rfl)
    (hresponses : u.responses = s.responses := by rfl) : RespondAlike (powered s r) (powered u q) := by
  cases hs : s.pwr with
  | true => rwa [powered_on hs, powered_on (hpwr.trans hs)]
  | false =>
    rw [powered_off hs, powered_off (hpwr.trans hs)]
    exact raise_respondAlike _ hresponses

/-- Another watch mapping leaves the responses of every instruction but a sprite DMA under `nested` as they are (R172). -/
theorem exec_respondAlike (i : Instr) (s : State) (m : WatchMap) (h : s.dmaNesting = .after ∨ ∀ v, i ≠ .wr8Dma v) :
    RespondAlike (exec i s) (exec i { s with watchMap := m }) := by
  have hmonitor (a : Address) (v : Byte) :
      (monitor { s with watchMap := m } a v).responses = (monitor s a v).responses := by
    rw [monitor_responses, monitor_responses]
  cases i with
  | coldReset => exact complete_respondAlike _
  | warmReset | rd8Ram a | rd8Vid a | rd8Inp a | rd8Lio a | rd8Exr a | rd8Sav a | rd8Prg a =>
    exact RespondAlike.powered (complete_respondAlike _)
  | rd16 a =>
    refine RespondAlike.powered ?_
    rw [read16_watchMap a s m]
    exact complete_respondAlike _
  | wr8Dma v =>
    have hafter := h.resolve_right fun hne => hne v rfl
    refine RespondAlike.powered (complete_respondAlike _ ?_)
    rw [storeDma_monitor_responses_of_after hafter]
    exact storeDma_monitor_responses_of_after (s := { s with watchMap := m }) hafter v
  | wr8Ram a v | wr8Vid a v | wr8Inp a v | wr8Aud a v | wr8Exr a v | wr8Sav a v | wr8Prg a v =>
    exact RespondAlike.powered (complete_respondAlike _ (hmonitor a v))
  | capture => exact RespondAlike.powered ⟨_, _, rfl, rfl, rfl⟩
  | restore p =>
    refine RespondAlike.powered ?_
    split
    · exact complete_respondAlike _
    · exact raise_respondAlike _
  | illegal => exact RespondAlike.powered (raise_respondAlike _)

/-- The events that an instruction appends stand behind the history it started from. -/
theorem history_eq_append_newEvents {i : Instr} {s t : State} (h : exec i s = .next t) :
    t.history = s.history ++ newEvents s t := by
  obtain ⟨es, hes⟩ := (extends_of_exec h).history
  rw [newEvents_of_append hes.symm, hes]

/-- Settles O50: the two runs start from states that differ in WATCHMAP alone. -/
theorem monitorChangesOnlyTraceEvents : Obligations.MonitorChangesOnlyTraceEvents := by
  intro i s t u m ht hu
  obtain ⟨t', u', ht', hu', halike⟩ := exec_answerAlike (.of_watchMap s m) i
  cases ht.symm.trans ht'
  cases hu.symm.trans hu'
  have hwatch : u.watch = t.watch := (extends_of_exec hu).watch.trans (extends_of_exec ht).watch.symm
  have hevents : untraced (newEvents s u) = untraced (newEvents s t) := by
    have hhistory := halike.history
    rw [history_eq_append_newEvents ht, history_eq_append_newEvents hu, untraced_append, untraced_append] at hhistory
    exact List.append_cancel_left hhistory
  refine ⟨halike.ram, halike.pwr, halike.bind, hwatch, halike.dmaNesting, halike.requests, halike.answers, hevents,
    halike.responses, fun h => ?_⟩
  obtain ⟨t', u', ht', hu', hresponses⟩ := exec_respondAlike i s m h
  cases ht.symm.trans ht'
  cases hu.symm.trans hu'
  exact hresponses

/-! The trace event of a write -/

/-- Handler calls are no trace events. -/
theorem not_isTrace_of_mem_calls {cs : List HandlerCall} {e : Event} (h : e ∈ cs.map Event.call) : isTrace e = false := by
  obtain ⟨c, -, rfl⟩ := List.mem_map.mp h
  rfl

/-- Settles O48: behind its trace event a WR8 appends handler calls alone. -/
theorem monitorFiresFirst : Obligations.MonitorFiresFirst := by
  intro a v p s hon
  obtain ⟨t, hexec, hhistory⟩ := exec_write_history hon (writeOf_writeInstr a v)
  exact ⟨writeInstr a v, t, _, decode_wr8 a v p, hexec, hhistory, fun _ => not_isTrace_of_mem_calls⟩

/-! The instructions that do not write -/

/-- The events that an accepted instruction other than a WR8 appends: the rebind marker of a reset, or its calls (R199, R244). -/
def nonWriteEvents (i : Instr) : List Event := if isReset i then [.rebind] else (callsOf i).map .call

/-- A RESTORE of any length appends no event (R182, R183). -/
theorem exec_restore_history {s : State} (hon : s.pwr = true) (p : List Byte) :
    ∃ t, exec (.restore p) s = .next t ∧ t.history = s.history := by
  rw [exec, execRestore, powered_on hon]
  split
  · exact ⟨_, complete_eq .., rfl⟩
  · exact ⟨_, raise_eq .., rfl⟩

/-- Whatever is no WR8 appends its rebind marker or its calls when it is accepted. -/
theorem exec_nonWrite_history {i : Instr} {s : State} (hwrite : writeOf i = none)
    (haccepted : i = .coldReset ∨ s.pwr = true) :
    ∃ t, exec i s = .next t ∧ t.history = s.history ++ nonWriteEvents i := by
  obtain rfl | hon := haccepted
  · exact ⟨_, complete_eq _ _, rfl⟩
  have hrow (a : Address) := rd8HandlerRowsCallOnce a s i
  cases i with
  | coldReset => exact ⟨_, complete_eq _ _, rfl⟩
  | warmReset => exact ⟨_, powered_on hon _, rfl⟩
  | rd8Ram a => exact ⟨_, exec_rd8Ram hon a, (List.append_nil _).symm⟩
  | rd8Lio a => exact ⟨_, rd8LioReadsZero a s hon, (List.append_nil _).symm⟩
  | rd8Vid a | rd8Inp a | rd8Exr a | rd8Sav a | rd8Prg a => exact ⟨_, hrow a _ hon (by simp), rfl⟩
  | rd16 a =>
    refine ⟨_, exec_rd16 hon a, ?_⟩
    simp [read8_snd, armCalls_eq_readCalls, nonWriteEvents, isReset, callsOf]
  | capture => exact ⟨_, powered_on hon _, (List.append_nil _).symm⟩
  | restore p =>
    obtain ⟨t, hexec, hhistory⟩ := exec_restore_history hon p
    exact ⟨t, hexec, hhistory.trans (List.append_nil _).symm⟩
  | illegal => exact ⟨_, powered_on hon _, (List.append_nil _).symm⟩
  | _ => cases hwrite

/-- None of these is a trace event. -/
theorem not_isTrace_of_mem_nonWriteEvents {i : Instr} {e : Event} (h : e ∈ nonWriteEvents i) : isTrace e = false := by
  unfold nonWriteEvents at h
  split at h
  · cases List.mem_singleton.mp h
    rfl
  · exact not_isTrace_of_mem_calls h

/-- Settles O49: a refused instruction appends nothing, and CAPTURE and WARM_RESET are none of the three that write Work RAM. -/
theorem onlyWritesFireTheMonitor : Obligations.OnlyWritesFireTheMonitor := by
  refine ⟨fun i s t hwrite hexec e he => ?_, fun i s t hi hexec => ?_⟩
  · obtain hrefused | ⟨haccepted, -⟩ := exec_cases i s
    · cases hexec.symm.trans hrefused
      have hnone : newEvents s (respond s .notPoweredOn 0#16 none) = [] := List.drop_length
      exact absurd (hnone ▸ he) List.not_mem_nil
    · obtain ⟨t', ht', hhistory⟩ := exec_nonWrite_history hwrite haccepted
      cases hexec.symm.trans ht'
      rw [newEvents_of_append hhistory] at he
      exact not_isTrace_of_mem_nonWriteEvents he
  · by_contra hram
    have hwriter := onlyThreeInstructionsWriteRam i s t hexec hram
    obtain rfl | rfl := hi <;> simp at hwriter

/-! The worked example -/

/-- A WR8.RAM stores its value in the cell and appends the trace event of its raw address, if any (R151, R171). -/
theorem exec_wr8Ram_newEvents {s : State} (hwf : Memory.wf s.ram = true) (hon : s.pwr = true) (a : Address) (v : Byte) :
    ∃ t, exec (.wr8Ram a v) s = .next t ∧ newEvents s t = traceEvents s a v ∧ ramRead t.ram (a.toNat % 2048) = v :=
  ⟨_, exec_wr8Ram hon a v, newEvents_of_append rfl, by rw [ramRead_ramWrite hwf, if_pos rfl]⟩

/-- Settles O51: of the two addresses, which name two cells, the first alone is watched. -/
theorem workedTraceExample : Obligations.WorkedTraceExample := by
  intro s hwf hon hmap
  have hfirst : traceEvents s 0x075E#16 5#8 = [.trace "Coins" 5#8] := by rw [traceEvents, hmap]; rfl
  have hsecond : traceEvents s 0x075F#16 5#8 = [] := by rw [traceEvents, hmap]; rfl
  refine ⟨?_, ?_, by decide⟩
  · rw [← hfirst]
    exact exec_wr8Ram_newEvents hwf hon 0x075E#16 5#8
  · rw [← hsecond]
    exact exec_wr8Ram_newEvents hwf hon 0x075F#16 5#8

end Sys2Proof.Machine

/-! PROOFS of the family 44_snapshot (O30, O52 to O55): what CAPTURE and RESTORE do to the whole state, and that a dump and a
load of all 2048 cells undo each other. -/

namespace Sys2Proof.Machine

/-! The two instructions -/

/-- CAPTURE answers with the dump of all cells, and nothing else changes (R180, R181). -/
theorem exec_capture {s : State} (hon : s.pwr = true) :
    exec .capture s = .next { s with responses := s.responses ++ [⟨.ok, 0#16, some (ramDump s.ram 0 ramSize)⟩] } :=
  powered_on hon _

/-- RESTORE of a payload of the right length loads it, and nothing else changes (R182). -/
theorem exec_restore_of_length {s : State} (hon : s.pwr = true) {p : List Byte} (hlen : p.length = ramSize) :
    exec (.restore p) s =
      .next { s with ram := ramLoad 0 p, responses := s.responses ++ [⟨.ok, 0#16, none⟩] } := by
  rw [exec, execRestore, powered_on hon, if_pos hlen, complete_eq]

/-- RESTORE of any other length raises SnapshotLengthError and loads nothing (R183). -/
theorem exec_restore_of_length_ne {s : State} (hon : s.pwr = true) {p : List Byte} (hlen : p.length ≠ ramSize) :
    exec (.restore p) s = .next { s with responses := s.responses ++ [⟨.snapshotLengthError, 0#16, none⟩] } := by
  rw [exec, execRestore, powered_on hon, if_neg hlen, raise_eq]

/-- Settles O30: RESTORE tests the length before it loads anything. -/
theorem restoreOfWrongLengthWritesNothing : Obligations.RestoreOfWrongLengthWritesNothing :=
  ⟨rfl, fun _ _ hon hlen => exec_restore_of_length_ne hon hlen⟩

/-! The bytes of a dump and of a load -/

/-- A dump of all cells holds the content of cell `j` at index `j` (R180). -/
theorem ramDump_getElem?_eq_ramRead (m : List Host.Cell) {j : Nat} (hj : j < ramSize) :
    (ramDump m 0 ramSize)[j]? = some (ramRead m j) := by
  have hlt : j < (ramDump m 0 ramSize).length := by rwa [ramDump_length]
  rw [List.getElem?_eq_getElem hlt, ramDump_getElem, Nat.zero_add]

/-- After a load of all cells, cell `j` holds the byte at index `j` (R182). -/
theorem getElem?_eq_ramRead_ramLoad {p : List Byte} (hlen : p.length = ramSize) {j : Nat} (hj : j < ramSize) :
    p[j]? = some (ramRead (ramLoad 0 p) j) := by
  have hlt : j < p.length := hlen.symm ▸ hj
  have hread := ramRead_ramLoad (i := 0) (by omega) hlt
  rw [Nat.zero_add] at hread
  rw [List.getElem?_eq_getElem hlt, hread]

/-- Settles O52: the payload is the dump. -/
theorem captureDeliversTheCells : Obligations.CaptureDeliversTheCells := fun s hon =>
  ⟨ramDump s.ram 0 ramSize, ramDump_length .., fun _ => ramDump_getElem?_eq_ramRead s.ram, exec_capture hon⟩

/-- Settles O53: Work RAM is the load of the payload. -/
theorem restoreOverwritesEveryCell : Obligations.RestoreOverwritesEveryCell := fun _ _ hon hlen =>
  ⟨_, exec_restore_of_length hon hlen, fun _ => getElem?_eq_ramRead_ramLoad hlen, rfl⟩

/-! The round trips (R184) -/

/-- A dump after a load gives back the bytes loaded: they agree at every index. -/
theorem ramDump_ramLoad {p : List Byte} (hlen : p.length = ramSize) : ramDump (ramLoad 0 p) 0 ramSize = p := by
  refine List.ext_getElem? fun j => ?_
  by_cases hj : j < ramSize
  · rw [ramDump_getElem?_eq_ramRead _ hj, getElem?_eq_ramRead_ramLoad hlen hj]
  · rw [List.getElem?_eq_none (by rw [ramDump_length]; omega), List.getElem?_eq_none (by omega)]

/-- A load of a dump gives back the store dumped: both are canonical and read alike in every cell. -/
theorem ramLoad_ramDump {m : List Host.Cell} (hwf : Memory.wf m = true) : ramLoad 0 (ramDump m 0 ramSize) = m := by
  have hlen : (ramDump m 0 ramSize).length = ramSize := ramDump_length ..
  refine Memory.wf_ext (ramLoad_wf hlen) hwf fun j hj => Option.some_inj.mp ?_
  rw [← getElem?_eq_ramRead_ramLoad hlen hj, ramDump_getElem?_eq_ramRead m hj]

/-- Settles O54: the load of the dump is the store dumped, whatever Work RAM held before. -/
theorem restoreOfCaptureGivesBackRam : Obligations.RestoreOfCaptureGivesBackRam := fun _ _ hwf hs hu =>
  ⟨_, _, _, exec_capture hs, rfl, exec_restore_of_length hu (ramDump_length ..), ramLoad_ramDump hwf⟩

/-- Settles O55: the dump of the load is the payload loaded. -/
theorem captureOfRestoreGivesBackPayload : Obligations.CaptureOfRestoreGivesBackPayload := by
  intro p s hon hlen
  refine ⟨_, _, exec_restore_of_length hon hlen, exec_capture hon, ?_⟩
  rw [ramDump_ramLoad hlen]

end Sys2Proof.Machine

/-! PROOFS of the family 45_handler_ports (O10, O11, O17, O57, O58): the words of the handler calls, the calls that each
instruction makes, their legality, and the Video Unit's own reads. -/

namespace Sys2Proof

/-! The word of a handler call -/

/-- The word HCALL as a number: its three fields, each above the next (R195). -/
theorem hcallWord_toNat (sel : BitVec 4) (a : Address) (v : Byte) :
    (hcallWord sel a v).toNat = sel.toNat * 0x1000000 + a.toNat * 256 + v.toNat := by
  rw [hcallWord, BitVec.toNat_append, BitVec.toNat_append, ← Nat.shiftLeft_add_eq_or_of_lt a.isLt,
    ← Nat.shiftLeft_add_eq_or_of_lt v.isLt, Nat.shiftLeft_eq, Nat.shiftLeft_eq]
  omega

/-- Settles O10: each word is made of three fields, and a Video register's index fits the address
field. -/
theorem handlerCallWords : Obligations.HandlerCallWords := by
  intro i a v
  have hindex : i.toNat < 65536 := i.isLt.trans (by decide)
  simp [HandlerCall.word, hcallWord_toNat, hindex]

/-- The handler call that three fields of a word HCALL name; none for the selectors 12 to 15 (R195). -/
def callOfFields (sel : BitVec 4) (a : Address) (v : Byte) : Option HandlerCall :=
  match sel.toNat with
  | 0 => some (.vidRd (a.setWidth 3))
  | 1 => some (.vidWr (a.setWidth 3) v)
  | 2 => some (.vidDma v)
  | 3 => some (.inpRd a)
  | 4 => some (.inpWr a v)
  | 5 => some (.audWr a v)
  | 6 => some (.cartRdx a)
  | 7 => some (.cartWrx a v)
  | 8 => some (.cartRds a)
  | 9 => some (.cartWrs a v)
  | 10 => some (.cartRdp a)
  | 11 => some (.cartWrp a v)
  | _ => none

/-- The handler call that a word HCALL tells: that of its fields HSEL, HADDR and HWDATA (R195). -/
def callOfWord (w : HCallWord) : Option HandlerCall :=
  callOfFields (w.extractLsb' 24 4) (w.extractLsb' 8 16) (w.extractLsb' 0 8)

/-- Of a word made of three fields these are read back. -/
theorem callOfWord_hcallWord (sel : BitVec 4) (a : Address) (v : Byte) :
    callOfWord (hcallWord sel a v) = callOfFields sel a v := by
  have hsel : (hcallWord sel a v).extractLsb' 24 4 = sel := by
    rw [hcallWord, BitVec.append_assoc]
    exact BitVec.extractLsb'_append_eq_left
  have haddr : (hcallWord sel a v).extractLsb' 8 16 = a := by
    rw [hcallWord, BitVec.extractLsb'_append_eq_of_le (by decide)]
    exact BitVec.extractLsb'_append_eq_right
  have hdata : (hcallWord sel a v).extractLsb' 0 8 = v := BitVec.extractLsb'_append_eq_right
  rw [callOfWord, hsel, haddr, hdata]

/-- The word of a handler call tells that call: cutting the zero-extended index of a Video register to 3 bits gives it back. -/
theorem callOfWord_word (c : HandlerCall) : callOfWord c.word = some c := by
  cases c with
  | vidRd i | vidWr i v =>
    rw [HandlerCall.word, callOfWord_hcallWord]
    simp [callOfFields]
  | _ => exact callOfWord_hcallWord ..

/-- Settles O11: a call can be read back from its word. -/
theorem handlerCallWordIsInjective : Obligations.HandlerCallWordIsInjective := by
  intro c d h
  have hsome : some c = some d := by rw [← callOfWord_word c, h, callOfWord_word d]
  exact Option.some_inj.mp hsome

end Sys2Proof

namespace Sys2Proof.Machine

/-! The calls of an instruction -/

@[simp] theorem filterMap_eventCall_calls (cs : List HandlerCall) : (cs.map Event.call).filterMap eventCall = cs := by
  rw [List.filterMap_map]
  exact List.filterMap_some

/-- The rebind marker of a reset is no handler call, and a reset makes none (R199, R244). -/
theorem filterMap_eventCall_nonWriteEvents (i : Instr) : (nonWriteEvents i).filterMap eventCall = callsOf i := by
  unfold nonWriteEvents
  split
  · next hreset =>
    cases i with
    | coldReset | warmReset => rfl
    | _ => cases hreset
  · exact filterMap_eventCall_calls _

/-- Apart from a sprite DMA the calls of an accepted instruction are the inventory's, whatever the state (R199). -/
theorem writeCalls_of_ne_wr8Dma {i : Instr} (hdma : ∀ v, i ≠ .wr8Dma v) (s : State) : writeCalls i s = callsOf i := by
  unfold writeCalls
  split
  · next v => exact absurd rfl (hdma v)
  · rfl

/-- Under `after` a sprite DMA's are too: the Video Unit reads nothing between its two calls (R200). -/
theorem writeCalls_of_after {s : State} (hafter : s.dmaNesting = .after) (i : Instr) : writeCalls i s = callsOf i := by
  by_cases hdma : ∃ v, i = .wr8Dma v
  · obtain ⟨v, rfl⟩ := hdma
    have hcalled : (dmaCalled v s).dmaNesting = .after := by rw [dmaCalled, monitor_eq]; exact hafter
    rw [writeCalls, dmaAddrs_after hcalled]
    rfl
  · exact writeCalls_of_ne_wr8Dma (not_exists.mp hdma) s

/-- Of the events that an accepted instruction appends, the handler calls are its `writeCalls`, in order. -/
theorem exec_newCalls {i : Instr} {s : State} (haccepted : i = .coldReset ∨ s.pwr = true) :
    ∃ t, exec i s = .next t ∧ (newEvents s t).filterMap eventCall = writeCalls i s := by
  cases hwrite : writeOf i with
  | none =>
    obtain ⟨t, hexec, hhistory⟩ := exec_nonWrite_history hwrite haccepted
    have hdma : ∀ v, i ≠ .wr8Dma v := by
      rintro v rfl
      cases hwrite
    refine ⟨t, hexec, ?_⟩
    rw [newEvents_of_append hhistory, filterMap_eventCall_nonWriteEvents, writeCalls_of_ne_wr8Dma hdma]
  | some q =>
    have hon : s.pwr = true := haccepted.resolve_left (by rintro rfl; cases hwrite)
    obtain ⟨t, hexec, hhistory⟩ := exec_write_history hon hwrite
    rw [List.append_assoc] at hhistory
    refine ⟨t, hexec, ?_⟩
    rw [newEvents_of_append hhistory, List.filterMap_append, filterMap_eventCall_traceEvents,
      filterMap_eventCall_calls, List.nil_append]

/-- Settles O57: outside a sprite DMA under `nested` the calls are the inventory's. -/
theorem handlerCallInventory : Obligations.HandlerCallInventory := by
  intro i s hon hnesting
  have hcalls : writeCalls i s = callsOf i :=
    hnesting.elim (fun hafter => writeCalls_of_after hafter i) (fun hdma => writeCalls_of_ne_wr8Dma hdma s)
  rw [← hcalls]
  exact exec_newCalls (.inr hon)

/-! The legal calls -/

/-- An RD8 calls with its address only in the range of the function called (R191, R192, R194). -/
theorem callLegal_of_mem_readCalls {a : Address} {c : HandlerCall} (hc : c ∈ readCalls a) : CallLegal c := by
  unfold readCalls at hc
  split_ifs at hc with hram hvid hlio hinp hexr hsav
  · cases hc
  · cases List.mem_singleton.mp hc
    trivial
  · cases List.mem_singleton.mp hc
    exact hinp.imp BitVec.eq_of_toNat_eq BitVec.eq_of_toNat_eq
  · cases hc
  · cases List.mem_singleton.mp hc
    exact ⟨not_lt.mp hlio, hexr⟩
  · cases List.mem_singleton.mp hc
    exact ⟨not_lt.mp hexr, hsav⟩
  · cases List.mem_singleton.mp hc
    exact not_lt.mp hsav

/-- The address condition of a row is the range of the functions that the row calls (R191 to R194). -/
theorem callLegal_of_mem_callsOf {i : Instr} (hwf : i.wf = true) {c : HandlerCall} (hc : c ∈ callsOf i) : CallLegal c := by
  cases i with
  | coldReset | warmReset | rd8Ram a | rd8Lio a | wr8Ram a v | capture | restore p | illegal =>
    exact absurd hc List.not_mem_nil
  | rd16 a => exact (List.mem_append.mp hc).elim callLegal_of_mem_readCalls callLegal_of_mem_readCalls
  | wr8Dma v =>
    obtain rfl | rfl : c = .vidDma v ∨ c = .audWr 0x4014#16 v := by simpa [callsOf] using hc
    · trivial
    · exact ⟨by decide, by decide⟩
  | wr8Inp a v =>
    obtain rfl | rfl : c = .inpWr a v ∨ c = .audWr a v := by simpa [callsOf] using hc
    · exact (isInputAddr_iff a).mp hwf
    · exact (region_lio_iff a).mp (region_of_isInputAddr hwf)
  | rd8Vid a | wr8Vid a v =>
    cases List.mem_singleton.mp hc
    trivial
  | rd8Inp a =>
    cases List.mem_singleton.mp hc
    exact (isInputAddr_iff a).mp hwf
  | wr8Aud a v =>
    cases List.mem_singleton.mp hc
    obtain ⟨hlow, -⟩ := Bool.and_eq_true_iff.mp hwf
    exact (region_lio_iff a).mp (region_of_isLowIoAddr_and_not hlow).1
  | rd8Exr a | wr8Exr a v =>
    cases List.mem_singleton.mp hc
    exact (region_exr_iff a).mp ((exrCondition_iff a).mp hwf)
  | rd8Sav a | wr8Sav a v =>
    cases List.mem_singleton.mp hc
    exact (region_sav_iff a).mp ((mask_sav_iff a).mp (beq_iff_eq.mp hwf))
  | rd8Prg a | wr8Prg a v =>
    cases List.mem_singleton.mp hc
    exact (region_prg_iff a).mp ((mask_prg_iff a).mp (beq_iff_eq.mp hwf))

/-- So the calls of a well-formed instruction are legal, whatever the Video Unit reads inside a sprite DMA (R201). -/
theorem callLegal_of_mem_writeCalls {i : Instr} (hwf : i.wf = true) {s : State} {c : HandlerCall}
    (hc : c ∈ writeCalls i s) : CallLegal c := by
  unfold writeCalls at hc
  split at hc
  · next v =>
    rw [List.append_assoc, List.mem_append, List.mem_append, List.mem_flatMap] at hc
    obtain hvid | ⟨a, -, hread⟩ | haud := hc
    · exact callLegal_of_mem_callsOf hwf (List.mem_append_left [HandlerCall.audWr 0x4014#16 v] hvid)
    · exact callLegal_of_mem_readCalls hread
    · exact callLegal_of_mem_callsOf hwf (List.mem_append_right [HandlerCall.vidDma v] haud)
  · exact callLegal_of_mem_callsOf hwf hc

/-- Legality of a history goes by its handler calls, so it is kept when those appended are legal. -/
theorem CallsLegal.append {h es : List Event} (hlegal : CallsLegal h)
    (hnew : ∀ c ∈ es.filterMap eventCall, CallLegal c) : CallsLegal (h ++ es) := by
  intro c hc
  obtain hold | hc := List.mem_append.mp hc
  · exact hlegal c hold
  · exact hnew c (List.mem_filterMap.mpr ⟨.call c, hc, rfl⟩)

/-- Every well-formed instruction keeps the handler calls legal: refused it calls nothing. -/
theorem exec_keeps_callsLegal {i : Instr} (hwf : i.wf = true) {s t : State} (hlegal : CallsLegal s.history)
    (hexec : exec i s = .next t) : CallsLegal t.history := by
  obtain hrefused | ⟨haccepted, -⟩ := exec_cases i s
  · cases hexec.symm.trans hrefused
    exact hlegal
  · obtain ⟨t', ht', hcalls⟩ := exec_newCalls haccepted
    cases hexec.symm.trans ht'
    rw [history_eq_append_newEvents hexec]
    exact hlegal.append fun c hc => callLegal_of_mem_writeCalls hwf (hcalls ▸ hc)

/-- What a step can do: nothing, or take a request and perform the well-formed instruction of its word (R33, R87, R90). -/
theorem step_cases {s t : State} (hstep : step s = .next t) :
    t = s ∨ ∃ (rest : List Request) (i : Instr), i.wf = true ∧ exec i { s with requests := rest } = .next t := by
  cases hrequests : s.requests with
  | nil =>
    cases hstep.symm.trans (idleStepChangesNothing s hrequests)
    exact .inl rfl
  | cons r rest =>
    obtain ⟨i, hdecode, hwf⟩ := everyWordSelectsARow r.word r.payload
    have hrun := stepRunsDecodedInstruction s r rest i hrequests hdecode
    exact .inr ⟨rest, i, hwf, hrun.symm.trans hstep⟩

/-- Settles O17: the instructions that a step performs are well formed, and these keep the calls legal. -/
theorem everyStepKeepsCallsLegal : Obligations.EveryStepKeepsCallsLegal := by
  intro s t hlegal hstep
  obtain rfl | ⟨rest, i, hwf, hexec⟩ := step_cases hstep
  · exact hlegal
  · exact exec_keeps_callsLegal (s := { s with requests := rest }) hwf hlegal hexec

/-! The Video Unit's own reads -/

/-- With PWR = 1 the row selected by an RD8's word leaves what a nested read at its address leaves (R201). -/
theorem exec_readInstr_eq_nestedRead {s : State} (hon : s.pwr = true) (a : Address) :
    exec (readInstr a) s = .next (nestedRead a s) := by
  rw [exec_readInstr, powered_on hon]
  rfl

/-- Settles O58. -/
theorem nestedReadIsAnRd8 : Obligations.NestedReadIsAnRd8 := fun a d p _ hon =>
  ⟨readInstr a, decode_rd8 a d p, exec_readInstr_eq_nestedRead hon a⟩

end Sys2Proof.Machine

/-! PROOFS of the family 60_exceptions (O27 to O29, O31, O32): which exception an instruction raises, that it then does
nothing but answer it, and that an instruction which raises none answers OK. -/

namespace Sys2Proof.Machine

/-! The exception of an instruction -/

/-- The exception that an accepted instruction raises of its own: IllegalOp or SnapshotLengthError (R211, R213). -/
def rowException : Instr → Option Status
  | .illegal => some .illegalOp
  | .restore p => if p.length = ramSize then none else some .snapshotLengthError
  | _ => none

/-- The one exception that applies to an instruction, if any: the guard's comes first (R217). -/
def exceptionOf (i : Instr) (s : State) : Option Status :=
  if i = .coldReset ∨ s.pwr = true then rowException i else some .notPoweredOn

theorem exceptionOf_of_accepted {i : Instr} {s : State} (haccepted : i = .coldReset ∨ s.pwr = true) :
    exceptionOf i s = rowException i :=
  if_pos haccepted

theorem exceptionOf_of_off {i : Instr} {s : State} (hi : i ≠ .coldReset) (hoff : s.pwr = false) :
    exceptionOf i s = some .notPoweredOn :=
  if_neg (by simp [hi, hoff])

theorem rowException_restore_of_length_ne {p : List Byte} (hlen : p.length ≠ ramSize) :
    rowException (.restore p) = some .snapshotLengthError :=
  if_neg hlen

theorem rowException_eq_none {i : Instr} (hi : i ≠ .illegal) (hlen : ∀ p, i = .restore p → p.length = ramSize) :
    rowException i = none := by
  unfold rowException
  split
  · exact absurd rfl hi
  · exact if_pos (hlen _ rfl)
  · rfl

/-- Only the rows ILLEGAL and RESTORE raise an exception of their own. -/
theorem rowException_eq_some {i : Instr} {st : Status} (h : rowException i = some st) :
    (i = .illegal ∧ st = .illegalOp) ∨ ∃ p, i = .restore p ∧ p.length ≠ ramSize ∧ st = .snapshotLengthError := by
  unfold rowException at h
  split at h
  · cases h
    exact .inl ⟨rfl, rfl⟩
  · next p =>
    split_ifs at h with hlen
    cases h
    exact .inr ⟨p, rfl, hlen, rfl⟩
  · cases h

/-- An exception is the guard's, or an accepted instruction's own (R217). -/
theorem exceptionOf_eq_some {i : Instr} {s : State} {st : Status} (h : exceptionOf i s = some st) :
    (i ≠ .coldReset ∧ s.pwr = false ∧ st = .notPoweredOn) ∨ (s.pwr = true ∧ rowException i = some st) := by
  unfold exceptionOf at h
  split_ifs at h with haccepted
  · refine .inr ⟨haccepted.resolve_left ?_, h⟩
    rintro rfl
    cases h
  · obtain ⟨hi, hoff⟩ := not_or.mp haccepted
    cases h
    exact .inl ⟨hi, Bool.eq_false_of_not_eq_true hoff, rfl⟩

/-! What the instruction then does -/

/-- ILLEGAL raises IllegalOp (R213). -/
theorem exec_illegal {s : State} (hon : s.pwr = true) : exec .illegal s = raise s .illegalOp :=
  powered_on hon _

/-- An instruction to which an exception applies takes it and does nothing else (R218). -/
theorem exec_of_exceptionOf {i : Instr} {s : State} {st : Status} (h : exceptionOf i s = some st) :
    exec i s = raise s st := by
  obtain ⟨hi, hoff, rfl⟩ | ⟨hon, hrow⟩ := exceptionOf_eq_some h
  · exact exec_of_off hoff hi
  · obtain ⟨rfl, rfl⟩ | ⟨p, rfl, hlen, rfl⟩ := rowException_eq_some hrow
    · exact exec_illegal hon
    · exact exec_restore_of_length_ne hon hlen

/-- An answer is a next state whose last response has the status `st`. -/
def AnswersWith (st : Status) (r : Result) : Prop :=
  ∃ (u : State) (own : Response), r = .next { u with responses := u.responses ++ [own] } ∧ own.status = st

theorem complete_answersWith_ok (s : State) (d : Data) : AnswersWith .ok (complete s d) :=
  ⟨s, _, complete_eq s d, rfl⟩

/-- With PWR = 1 the guard lets the answer pass. -/
theorem AnswersWith.powered {st : Status} {s : State} {r : Result} (h : AnswersWith st r) (hon : s.pwr = true) :
    AnswersWith st (powered s r) := by
  rwa [powered_on hon]

/-- An instruction to which no exception applies answers OK. -/
theorem exec_answersWith_ok {i : Instr} {s : State} (h : exceptionOf i s = none) : AnswersWith .ok (exec i s) := by
  by_cases hi : i = .coldReset
  · subst hi
    exact complete_answersWith_ok ..
  have hon : s.pwr = true := by
    by_contra hoff
    rw [exceptionOf_of_off hi (Bool.eq_false_of_not_eq_true hoff)] at h
    cases h
  rw [exceptionOf_of_accepted (.inr hon)] at h
  cases i with
  | coldReset => exact absurd rfl hi
  | capture => exact ⟨s, _, exec_capture hon, rfl⟩
  | restore p =>
    by_cases hlen : p.length = ramSize
    · exact ⟨{ s with ram := ramLoad 0 p }, _, exec_restore_of_length hon hlen, rfl⟩
    · rw [rowException_restore_of_length_ne hlen] at h
      cases h
  | illegal => cases h
  | _ => exact (complete_answersWith_ok ..).powered hon

/-- Every instruction's own response has the status of the exception that applies, or OK. -/
theorem exec_answersWith (i : Instr) (s : State) : AnswersWith ((exceptionOf i s).getD .ok) (exec i s) := by
  cases h : exceptionOf i s with
  | none => exact exec_answersWith_ok h
  | some st => exact ⟨s, _, exec_of_exceptionOf h, rfl⟩

/-- The responses of an instruction: OK ones, then its own with the status of the exception that applies, or OK. -/
theorem exec_response_statuses {i : Instr} {s t : State} (hexec : exec i s = .next t) :
    ∃ (rs : List Response) (own : Response), t.responses = s.responses ++ rs ++ [own] ∧ (∀ q ∈ rs, q.status = .ok) ∧
      own.status = (exceptionOf i s).getD .ok := by
  obtain ⟨t', rs, own, ht', hresponses, hok, -⟩ := exec_answers_once i s
  obtain ⟨u, last, hu, hlast⟩ := exec_answersWith i s
  cases hexec.symm.trans ht'
  cases hexec.symm.trans hu
  obtain ⟨-, hown⟩ := List.append_inj' hresponses rfl
  cases hown
  exact ⟨rs, own, hresponses, fun q hq => (hok q hq).1, hlast⟩

theorem newResponses_of_append {s t : State} {rs : List Response} (h : t.responses = s.responses ++ rs) :
    newResponses s t = rs := by
  rw [newResponses, h, List.drop_left]

/-- A response that is not OK reports the exception that applies to the instruction. -/
theorem exceptionOf_of_mem_newResponses {i : Instr} {s t : State} {r : Response} (hexec : exec i s = .next t)
    (hr : r ∈ newResponses s t) (hne : r.status ≠ .ok) : exceptionOf i s = some r.status := by
  obtain ⟨rs, own, hresponses, hok, hown⟩ := exec_response_statuses hexec
  rw [newResponses_of_append (hresponses.trans (List.append_assoc ..)), List.mem_append, List.mem_singleton] at hr
  obtain hr | rfl := hr
  · exact absurd (hok r hr) hne
  · cases h : exceptionOf i s with
    | none => exact absurd (hown.trans (by rw [h, Option.getD_none])) hne
    | some st => rw [hown, h, Option.getD_some]

/-! The statements -/

/-- Settles O27: with PWR = 1 the guard's exception applies to nothing, and every instruction leaves PWR at 1. -/
theorem notPoweredOnRefusesAllButColdReset : Obligations.NotPoweredOnRefusesAllButColdReset := by
  refine ⟨rfl, fun i s hoff hi => exec_of_off hoff hi, fun i s t hon hexec => ⟨?_, fun r hr hstatus => ?_⟩⟩
  · obtain ⟨u, own, hu, heffect⟩ := exec_performed_of_on hon i
    cases hexec.symm.trans hu
    exact heffect.pwr
  · have hexception := exceptionOf_of_mem_newResponses hexec hr (by rw [hstatus]; decide)
    rw [hstatus, exceptionOf_of_accepted (.inr hon)] at hexception
    obtain ⟨-, hst⟩ | ⟨-, -, -, hst⟩ := rowException_eq_some hexception
    · cases hst
    · cases hst

/-- OP = 5 decodes to ILLEGAL, whatever the other fields and the payload (R88). -/
theorem decode_of_opField_eq_five {w : ReqWord} (hop : opField w = 5#3) (p : List Byte) : decode w p = .ok .illegal := by
  rw [decode_eq_instrOf, hop]
  rfl

/-- Settles O28. -/
theorem reservedCodeAnswersIllegalOp : Obligations.ReservedCodeAnswersIllegalOp := by
  refine ⟨rfl, fun w p hop => decode_of_opField_eq_five hop p, fun s hon => exec_illegal hon, ?_⟩
  intro s r rest hrequests hop hon
  have hrun := stepRunsDecodedInstruction s r rest .illegal hrequests (decode_of_opField_eq_five hop r.payload)
  exact hrun.trans (exec_illegal hon)

/-- Settles O29: the status of an instruction's own response is that of `exceptionOf`, evaluated case by case. -/
theorem exceptionPriority : Obligations.ExceptionPriority := by
  intro i s t hexec
  obtain ⟨rs, own, hresponses, hok, hown⟩ := exec_response_statuses hexec
  refine ⟨rs, own, hresponses, hok, ?_, ?_, ?_, ?_, ?_⟩ <;> rw [hown]
  · rintro rfl
    rfl
  · intro hi hoff
    rw [exceptionOf_of_off hi hoff, Option.getD_some]
  · rintro rfl hon
    rw [exceptionOf_of_accepted (.inr hon)]
    rfl
  · rintro p rfl hlen hon
    rw [exceptionOf_of_accepted (.inr hon), rowException_restore_of_length_ne hlen, Option.getD_some]
  · intro hi hlen hon
    rw [exceptionOf_of_accepted (.inr hon), rowException_eq_none hi hlen, Option.getD_none]

/-- Settles O31: such a response reports the instruction's exception, which is RESTORE's own. -/
theorem snapshotLengthErrorOnlyFromRestore : Obligations.SnapshotLengthErrorOnlyFromRestore := by
  intro i s t hexec
  constructor
  · rintro ⟨r, hr, hstatus⟩
    have hexception := exceptionOf_of_mem_newResponses hexec hr (by rw [hstatus]; decide)
    rw [hstatus] at hexception
    obtain ⟨-, -, hst⟩ | ⟨hon, hrow⟩ := exceptionOf_eq_some hexception
    · cases hst
    · obtain ⟨-, hst⟩ | ⟨p, hi, hlen, -⟩ := rowException_eq_some hrow
      · cases hst
      · exact ⟨hon, p, hi, hlen⟩
  · rintro ⟨hon, p, rfl, hlen⟩
    cases hexec.symm.trans (exec_restore_of_length_ne hon hlen)
    rw [newResponses_of_append rfl]
    exact ⟨_, List.mem_singleton_self _, rfl⟩

/-- Settles O32: a response that is not OK means that an exception applies, and the instruction then only raises it. -/
theorem exceptionsArePrecise : Obligations.ExceptionsArePrecise := by
  intro i s t r hexec hr hne
  cases hexec.symm.trans (exec_of_exceptionOf (exceptionOf_of_mem_newResponses hexec hr hne))
  rw [newResponses_of_append rfl, List.mem_singleton] at hr
  rw [hr]
  exact ⟨rfl, rfl, rfl⟩

end Sys2Proof.Machine

/-! PROOFS of the family 70_reset_and_hazards (O21 to O26): the whole state that either reset leaves, and that PWR, WATCHMAP
and BIND change at resets only. -/

namespace Sys2Proof.Machine

/-! What a reset leaves -/

/-- An unlisted cell of Work RAM holds what R242 gives it. -/
theorem ramUnlisted_eq_coldCell (i : Nat) : ramUnlisted i = coldCell i := by
  unfold coldCell
  split
  · rfl
  · rfl
  · rfl
  · rfl
  · next h8 h9 hA hF => simp only [ramUnlisted, if_neg h8, if_neg h9, if_neg hA, if_neg hF]

/-- The fill and the four patches leave every cell as R242 gives it. -/
theorem ramRead_ramCold (i : Nat) : ramRead ramCold i = coldCell i := by
  rw [ramCold_eq, ramRead_nil, ramUnlisted_eq_coldCell]

/-- COLD_RESET's next state, from every state (R241, R244 to R246). -/
theorem exec_coldReset (s : State) :
    exec .coldReset s = .next { s with
      ram := ramCold
      pwr := true
      bind := bindSession
      watchMap := s.watch
      history := s.history ++ [.rebind]
      responses := s.responses ++ [⟨.ok, 0#16, none⟩] } :=
  rfl

/-- WARM_RESET's next state while PWR = 1 (R243 to R245). -/
theorem exec_warmReset {s : State} (hon : s.pwr = true) :
    exec .warmReset s = .next { s with
      bind := bindSession
      watchMap := s.watch
      history := s.history ++ [.rebind]
      responses := s.responses ++ [⟨.ok, 0#16, none⟩] } :=
  powered_on hon _

/-- Settles O21. -/
theorem coldResetLeavesFreshState : Obligations.ColdResetLeavesFreshState :=
  fun s => ⟨_, exec_coldReset s, fun j _ => ramRead_ramCold j, rfl⟩

/-- Settles O22: the reset state lists no cell, and neither does Work RAM after the fill and the patches. -/
theorem powerUpThenColdResetIsReset : Obligations.PowerUpThenColdResetIsReset := by
  refine (exec_coldReset State.powerUp).trans ?_
  rw [ramCold_eq]
  rfl

/-- Settles O23. -/
theorem powerUpAndResetValues : Obligations.PowerUpAndResetValues :=
  ⟨fun j _ => ramUnlisted_eq_coldCell j, rfl, rfl, rfl, rfl, rfl, rfl⟩

/-- Settles O24. -/
theorem warmResetKeepsRam : Obligations.WarmResetKeepsRam := fun _ => exec_warmReset

/-! What changes at resets only -/

/-- No instruction but COLD_RESET changes PWR: a refused one changes nothing, and an accepted one finds it 1 and leaves it 1. -/
theorem exec_keeps_pwr {i : Instr} {s t : State} (hi : i ≠ .coldReset) (hexec : exec i s = .next t) : t.pwr = s.pwr := by
  obtain hrefused | ⟨haccepted, u, own, hu, heffect⟩ := exec_cases i s
  · cases hexec.symm.trans hrefused
    rfl
  · cases hexec.symm.trans hu
    exact heffect.pwr.trans (haccepted.resolve_left hi).symm

theorem isReset_eq_false {i : Instr} (hcold : i ≠ .coldReset) (hwarm : i ≠ .warmReset) : isReset i = false := by
  unfold isReset
  split
  · exact absurd rfl hcold
  · exact absurd rfl hwarm
  · rfl

/-- No instruction but the resets changes WATCHMAP or BIND. -/
theorem exec_keeps_watchMap_bind {i : Instr} {s t : State} (hi : isReset i = false) (hexec : exec i s = .next t) :
    t.watchMap = s.watchMap ∧ t.bind = s.bind := by
  obtain hrefused | ⟨-, u, own, hu, heffect⟩ := exec_cases i s
  · cases hexec.symm.trans hrefused
    exact ⟨rfl, rfl⟩
  · cases hexec.symm.trans hu
    have hwatchMap := heffect.watchMap
    have hbind := heffect.bind
    rw [hi] at hwatchMap hbind
    exact ⟨hwatchMap, hbind⟩

/-- Settles O25. -/
theorem onlyColdResetWritesPwr : Obligations.OnlyColdResetWritesPwr :=
  ⟨fun s => ⟨_, exec_coldReset s, rfl⟩, fun _ _ _ => exec_keeps_pwr⟩

/-- Settles O26: that WATCH is fixed is a field of `Extends`. -/
theorem watchMapAndBindChangeOnlyAtResets : Obligations.WatchMapAndBindChangeOnlyAtResets := by
  refine ⟨fun s => ⟨_, exec_coldReset s, rfl⟩, fun s hon => ⟨_, exec_warmReset hon, rfl⟩, ?_, ?_⟩
  · intro i s t hcold hwarm hexec
    exact exec_keeps_watchMap_bind (isReset_eq_false hcold hwarm) hexec
  · intro i s t hexec
    exact (extends_of_exec hexec).watch

end Sys2Proof.Machine
